-- ==== Sys2Proof/Word.lean ====
section
/-! DEFINITION. The word types of RPLIDAR-RPI CORE: the byte of the serial stream, the token, the host word. -/

namespace Sys2Proof

/-- One byte of the serial stream, or of the frame RAM (00_scope.md R9, 20_memory.md R61). -/
abbrev Byte := BitVec 8

/-- A 16-bit field of the serial stream (30_encoding.md R84). -/
abbrev Half := BitVec 16

/-- A host command word or a response word (30_encoding.md R92, R94). -/
abbrev Word := BitVec 32

/-- A stream token `T[8:0]` (30_encoding.md R90). -/
abbrev Token := BitVec 9

/-- The number of a scan bank, `k` in 0..1 (10_state.md R26, R27). -/
abbrev BankNo := BitVec 1

end Sys2Proof
end

