-- ==== Sys2Proof/Config.lean ====
section
/-! DEFINITION. What is fixed for a run: the protocol constants, the parameters of 00_scope.md R6, and the free values (constants with no body) that stand for everything the spec leaves open. -/

namespace Sys2Proof.Config

/-! ### Protocol constants (R6, R7): fixed, a model must not vary them -/

/-- `FRAME_SIZE`, bytes of a frame, header included (R6, R80). -/
def frameSize : Nat := 1980
/-- `NPKT`, packets of a frame (R6). -/
def npkt : Nat := 90
/-- `PKT_SIZE`, bytes of a packet (R6). -/
def pktSize : Nat := 22
/-- `NCHUNK`, chunks of a packet (R6). -/
def nchunk : Nat := 4
/-- `NPOINTS`, points of a scan (R6). -/
def npoints : Nat := 360

/-! ### Constants of the start sequence and of the controller that no parameter of R6 names -/

/-- The largest PWM range the 16-bit `PWM_RANGE` holds (R210, R241). -/
def rangeMax : Int := 65535
/-- `GAIN_NUM` must stay below this bound (R194, U17). -/
def gainNumBound : Nat := 65536
/-- The number of raw speed units in one RPM of the sum: 64 units times 90 packets (R149, R190). -/
def rpmScale : Nat := 5760

/-! ### Parameters (R6, R69) -/

/-- How the serial line is opened (R6 row `BAUD`, R98). -/
structure LineMode where
  /-- line rate in bits per second -/
  baud : Nat
  /-- data bits of a character -/
  dataBits : Nat
  /-- whether a parity bit is sent -/
  parity : Bool
  /-- stop bits of a character -/
  stopBits : Nat
  /-- raw (non-canonical) mode -/
  raw : Bool
  /-- smallest number of bytes a blocking read waits for -/
  minRead : Nat
deriving DecidableEq, Repr

/-- `BAUD`: 115200, 8N1 raw, blocking single-byte-minimum read (R6). -/
def line : LineMode :=
  { baud := 115200, dataBits := 8, parity := false, stopBits := 1, raw := true, minRead := 1 }

/-- `SERIAL_PATH`, OPEN in the spec (R6, D34; log 7). -/
opaque serialPath : String
/-- `CORE_BASE`, OPEN in the spec and read by no rule (R69, D32; log 7). -/
opaque coreBase : Nat

/-- The parameters of R6 and R69, fixed for a run: the machine's state carries them and no step writes
them (R6: "A model takes them as arguments that are fixed for a run"; log 7). The five protocol sizes
are no parameters (R7). -/
structure Params where
  /-- `HDR0`, the first header byte -/
  hdr0 : Byte
  /-- `HDR1`, the second header byte -/
  hdr1 : Byte
  /-- `GAIN_NUM` -/
  gainNum : Nat
  /-- `GAIN_DEN` -/
  gainDen : Nat
  /-- `PWM_CHANNEL` -/
  pwmChannel : Nat
  /-- `PWM_FREQ_HZ` -/
  pwmFreqHz : Nat
  /-- `BAUD`, how the serial line is opened -/
  line : LineMode
  /-- `SERIAL_PATH` -/
  serialPath : String
  /-- `TARGET_RESET`, in 1/64 RPM -/
  targetReset : Half
  /-- `RANGE_MIN`, the smallest legal PWM range -/
  rangeMin : Nat
  /-- `REAL_RANGE_LO`, exclusive -/
  realRangeLo : Int
  /-- `REAL_RANGE_HI`, exclusive -/
  realRangeHi : Int
  /-- `LUT_FRAC`, fraction bits of the LUT -/
  lutFrac : Nat
  /-- `LUT_WIDTH`, bits of a LUT entry, signed -/
  lutWidth : Nat
  /-- `XY_WIDTH`, bits of a coordinate, signed -/
  xyWidth : Nat
  /-- `CORE_BASE` -/
  coreBase : Nat
deriving DecidableEq, Repr

/-- The values of R6. `HDR0` and `HDR1` are the spec's defaults (D3, G1: general knowledge). -/
def params : Params :=
  { hdr0 := 0xFA#8, hdr1 := 0xA0#8, gainNum := 1, gainDen := 20000, pwmChannel := 18
    pwmFreqHz := 50, line := line, serialPath := serialPath, targetReset := 16000#16
    rangeMin := 25, realRangeLo := 255, realRangeHi := 20000
    lutFrac := 22, lutWidth := 24, xyWidth := 40, coreBase := coreBase }

/-- The three widths of the converter have the values of R6, the only ones for which R151 states the
ROM. -/
def Params.statedWidths (p : Params) : Prop := p.lutFrac = 22 ∧ p.lutWidth = 24 ∧ p.xyWidth = 40

/-! ### Free values: what nothing in the spec fixes

The first argument of an `unwritten` value is the number of power-on resets before it, so that each
reset leaves contents of its own (R260, R262; log 5, log 11). The argument of a draw is the number of
draws before it (R13, R74; log 3, log 6). -/

/-- Contents of frame RAM byte `i` that nothing has written since reset `b` (U2). -/
opaque unwrittenFrame : (b i : Nat) → Byte
/-- `VALID` of an entry that nothing has written since reset `b` (U1). -/
opaque unwrittenValid : (b : Nat) → (k : BankNo) → (j : Nat) → Bool
/-- `TOO_CLOSE` of an entry that nothing has written since reset `b` (U1). -/
opaque unwrittenTooClose : (b : Nat) → (k : BankNo) → (j : Nat) → Bool
/-- `DIST` of an entry that nothing has written since reset `b` (U1). -/
opaque unwrittenDist : (b : Nat) → (k : BankNo) → (j : Nat) → BitVec 14
/-- `STRENGTH` of an entry that nothing has written since reset `b` (U1). -/
opaque unwrittenStrength : (b : Nat) → (k : BankNo) → (j : Nat) → Half
/-- `X` of an entry that nothing has written since reset `b` (U1). -/
opaque unwrittenX : (b : Nat) → (k : BankNo) → (j : Nat) → BitVec 40
/-- `Y` of an entry that nothing has written since reset `b` (U1). -/
opaque unwrittenY : (b : Nat) → (k : BankNo) → (j : Nat) → BitVec 40

/-- `VALID` of a raced READ_POINT (R74, U4). -/
opaque raceValid : Nat → Bool
/-- `TOO_CLOSE` of a raced READ_POINT (R74, U4). -/
opaque raceTooClose : Nat → Bool
/-- `DIST` of a raced READ_POINT (R74, U4). -/
opaque raceDist : Nat → BitVec 14
/-- `STRENGTH` of a raced READ_POINT (R74, U4). -/
opaque raceStrength : Nat → Half
/-- `X` of a raced READ_POINT (R74, U4). -/
opaque raceX : Nat → BitVec 40
/-- `Y` of a raced READ_POINT (R74, U4). -/
opaque raceY : Nat → BitVec 40

/-- `QW[k]` at a `LUT_FRAC` other than 22, for which R151 states no contents (log 7). -/
opaque lutEntry : (frac k : Nat) → Int

/-- Whether `TRANSPORT.open` answers ok (U9). -/
opaque drawOpen : Nat → Bool
/-- Whether `PWM.gpio_init` answers ok (U9). -/
opaque drawGpioInit : Nat → Bool
/-- What `PWM.get_real_range` answers (U10). -/
opaque drawRealRange : Nat → Int
/-- What `PWM.get_range` answers; `none` is `FAIL` (U11). -/
opaque drawRange : Nat → Option Int

end Sys2Proof.Config
end

