-- ==== Sys2Proof/Syntax.lean ====
section
/-! DEFINITION. The instructions: one constructor per row of spec/opcode_table.json, and the three kinds of encoded input that carry them. -/

namespace Sys2Proof

/-- One row of the opcode table each. A host command is one word of the command port (R92, R93), a
token step is one stream token taken in one phase (R91, R103), an internal step is one ENGINE step
(R103). Operands a rule ignores (`T[7:0]` of a short read, the operand bits of a reserved opcode) are
kept, so that every bit of the encoding is in the instruction. -/
inductive Instr where
  /-- START (R210) -/
  | start
  /-- STOP (R212) -/
  | stop
  /-- SNAPSHOT (R172) -/
  | snapshot
  /-- READ_POINT: bank `k`, index `j` (R174) -/
  | readPoint (k : BankNo) (j : BitVec 9)
  /-- READ_RPM (R195) -/
  | readRpm
  /-- READ_DRIVE (R196) -/
  | readDrive
  /-- READ_STATUS (R176) -/
  | readStatus
  /-- SET_TARGET: `v` in 1/64 RPM (R219) -/
  | setTarget (v : Half)
  /-- READ_TARGET (R223) -/
  | readTarget
  /-- SET_CB: `e` registers or removes the consumer (R220) -/
  | setCb (e : BitVec 1)
  /-- SCAN_ACK (R221) -/
  | scanAck
  /-- RESERVED_0: opcode 0x0 with any operand bits (R95) -/
  | reserved0 (c : BitVec 28)
  /-- RESERVED_C_F: opcodes 0xC to 0xF, `C[29:0]` as it came (R95) -/
  | reservedCF (c : BitVec 30)
  /-- HUNT_BYTE: byte `d` in HUNT (R111) -/
  | huntByte (d : Byte)
  /-- HUNT_SHORT: a short read in HUNT, `T[7:0]` ignored (R112) -/
  | huntShort (x : Byte)
  /-- HDR1_BYTE: byte `d` in HDR1 (R113) -/
  | hdr1Byte (d : Byte)
  /-- HDR1_SHORT: a short read in HDR1, `T[7:0]` ignored (R114) -/
  | hdr1Short (x : Byte)
  /-- PAYLOAD_BYTE: byte `d` in PAYLOAD (R115) -/
  | payloadByte (d : Byte)
  /-- PAYLOAD_SHORT: a short read in PAYLOAD, `T[7:0]` ignored (R116) -/
  | payloadShort (x : Byte)
  /-- TOP (R215) -/
  | top
  /-- VALIDATE (R134) -/
  | validate
  /-- DECODE (R141) -/
  | decode
  /-- PUBLISH (R170) -/
  | publish
  /-- ADJUST (R190) -/
  | adjust
  /-- NOTIFY (R217) -/
  | notify
  /-- STOPSEQ (R216) -/
  | stopseq
deriving DecidableEq, Repr

/-- An encoded input, in the three formats of the opcode table: a command word (`cmd32`, R92), a
phase with a token (`phase+token`, R91), a phase alone (`phase`, R103). -/
inductive Wire where
  /-- `C[31:0]` -/
  | command (c : Word)
  /-- `PHASE[3:0] ++ T[8:0]` -/
  | phaseToken (p : BitVec 13)
  /-- `PHASE[3:0]` -/
  | phaseOnly (p : BitVec 4)
deriving DecidableEq, Repr

/-- The mnemonic of the instruction's row in spec/opcode_table.json. -/
def Instr.mnemonic : Instr → String
  | .start => "START"
  | .stop => "STOP"
  | .snapshot => "SNAPSHOT"
  | .readPoint _ _ => "READ_POINT"
  | .readRpm => "READ_RPM"
  | .readDrive => "READ_DRIVE"
  | .readStatus => "READ_STATUS"
  | .setTarget _ => "SET_TARGET"
  | .readTarget => "READ_TARGET"
  | .setCb _ => "SET_CB"
  | .scanAck => "SCAN_ACK"
  | .reserved0 _ => "RESERVED_0"
  | .reservedCF _ => "RESERVED_C_F"
  | .huntByte _ => "HUNT_BYTE"
  | .huntShort _ => "HUNT_SHORT"
  | .hdr1Byte _ => "HDR1_BYTE"
  | .hdr1Short _ => "HDR1_SHORT"
  | .payloadByte _ => "PAYLOAD_BYTE"
  | .payloadShort _ => "PAYLOAD_SHORT"
  | .top => "TOP"
  | .validate => "VALIDATE"
  | .decode => "DECODE"
  | .publish => "PUBLISH"
  | .adjust => "ADJUST"
  | .notify => "NOTIFY"
  | .stopseq => "STOPSEQ"

end Sys2Proof
end

