-- ==== Sys2Proof/Machine/State.lean ====
section
/-! DEFINITION. The state of RPLIDAR-RPI CORE as plain data (10_state.md), what can be observed of it, the reasons a step can stop, and the state after power-on reset. -/

namespace Sys2Proof.Machine

/-! ### Sequencing registers -/

/-- `LS`, the lifecycle state (R22). `starting` is held only inside START. -/
inductive Lifecycle where
  | idle
  | starting
  | running
  | stopping
deriving DecidableEq, Repr

/-- `PHASE`, the ENGINE phase (R23). Codes 12 to 15 are never held and have no constructor. -/
inductive Phase where
  | idle
  | top
  | hunt
  | hdr1
  | payload
  | validate
  | decode
  | publish
  | adjust
  | notify
  | waitAck
  | stopseq
deriving DecidableEq, Repr

/-- `ERR`, the code of the last fatal start (R34, R241). Codes 4 to 15 are never held. -/
inductive ErrCode where
  /-- 0: none -/
  | none
  /-- 1: GPIO init failure -/
  | gpioInit
  /-- 2: transport open failure -/
  | transportOpen
  /-- 3: PWM range unavailable or out of bounds -/
  | pwmRange
deriving DecidableEq, Repr

/-! ### The storage spaces (R60) -/

/-- The frame RAM: the bytes written since reset, by frame offset, offsets strictly rising. An offset
that is not listed holds no written byte (log 5). -/
abbrev Memory := List Host.Cell

/-- One entry of the scan RAM as it is stored: a field is `none` until something has written it
(R27; log 5). -/
structure ScanCell where
  /-- `VALID` -/
  valid : Option Bool
  /-- `TOO_CLOSE` -/
  tooClose : Option Bool
  /-- `DIST` -/
  dist : Option (BitVec 14)
  /-- `STRENGTH` -/
  strength : Option Half
  /-- `X`, signed -/
  x : Option (BitVec 40)
  /-- `Y`, signed -/
  y : Option (BitVec 40)
deriving DecidableEq, Repr

/-- One entry of the scan RAM as it is read: a value in every field (R27). -/
structure ScanEntry where
  /-- `VALID` -/
  valid : Bool
  /-- `TOO_CLOSE` -/
  tooClose : Bool
  /-- `DIST` -/
  dist : BitVec 14
  /-- `STRENGTH` -/
  strength : Half
  /-- `X`, signed, in units of 2^-22 mm -/
  x : BitVec 40
  /-- `Y`, signed, in units of 2^-22 mm -/
  y : BitVec 40
deriving DecidableEq, Repr

/-- One bank of the scan RAM: the entries written since reset, by index, indices strictly rising. -/
abbrev Bank := List (Nat × ScanCell)

/-! ### What is observed (R14, R244) -/

/-- What the status word of a response says (R94); `RespStatus.code` is the word. -/
inductive RespStatus where
  /-- 0 -/
  | ok
  /-- 1 -/
  | badCmd
  /-- 2 -/
  | fatal
deriving DecidableEq, Repr

/-- The direction of a GPIO channel (R98). -/
inductive PinMode where
  | output
  | input
deriving DecidableEq, Repr

/-- A collaborator request with its arguments (R98). -/
inductive Request where
  | transportOpen (path : String) (line : Config.LineMode)
  | transportRead (n : Nat)
  | transportClose
  | gpioInit
  | gpioTerminate
  | setMode (channel : Nat) (mode : PinMode)
  | setFrequency (channel hz : Nat)
  | getRealRange (channel : Nat)
  | setRange (channel : Nat) (range : Int)
  | getRange (channel : Nat)
  | writeDuty (channel : Nat) (duty : Half)
deriving DecidableEq, Repr

/-- A collaborator's answer (R98): none, ok or fail, an integer, an integer or `FAIL` (`none`). -/
inductive Answer where
  | nothing
  | okOrFail (ok : Bool)
  | number (n : Int)
  | numberOrFail (n : Option Int)
deriving DecidableEq, Repr

/-- The reason mark of a dropped frame (R14, R242). -/
inductive DropReason where
  | shortRead
  | checksum
deriving DecidableEq, Repr

/-- One observation (R244). -/
inductive Obs where
  /-- a host command's response: the status word `S` and the data words, 32 bits each (R65, R94) -/
  | response (s : Word) (data : List Word)
  /-- a collaborator request with its answer (R13, R98) -/
  | call (req : Request) (ans : Answer)
  /-- the event `SCAN_READY(rpm_raw, bank)` (R99) -/
  | scanReady (rpmRaw : BitVec 23) (bank : BankNo)
  /-- the internal mark `drop(reason)` (R242) -/
  | drop (reason : DropReason)
deriving DecidableEq, Repr

/-! ### What the outside world does (log 1 to log 3) -/

/-- A collaborator answer fixed for the next such request (R100 `ANSWER`). -/
inductive FixedAnswer where
  /-- of `TRANSPORT.open`: ok? -/
  | transportOpen (ok : Bool)
  /-- of `PWM.gpio_init`: ok? -/
  | gpioInit (ok : Bool)
  /-- of `PWM.get_real_range` -/
  | realRange (n : Int)
  /-- of `PWM.get_range`; `none` is `FAIL` -/
  | range (n : Option Int)
deriving DecidableEq, Repr

/-- Whose step comes next (R3, R246), a power-on reset (R260), or a line of a script that is no step of
an agent (R100, R101). -/
inductive Turn where
  /-- the HOST gives a command word -/
  | host (c : Word)
  /-- the ENGINE takes an internal step, if it has one -/
  | engine
  /-- the TRANSPORT delivers its next token, if the ENGINE takes one -/
  | transport
  /-- the platform applies the power-on reset -/
  | powerOn
  /-- the answer of the next such request is fixed from here on (R100 `ANSWER`) -/
  | answer (a : FixedAnswer)
  /-- the HOST gives READ_STATUS, again and again until `STATUS[1:0] = 0` (R101 `WAITIDLE`) -/
  | pollIdle
deriving DecidableEq, Repr

/-- The collaborator answers that are fixed for the next such request (R98, R100 `ANSWER`). Where none
is fixed the answer is a free draw. -/
structure Answers where
  /-- of `TRANSPORT.open`: ok? -/
  transportOpen : Option Bool
  /-- of `PWM.gpio_init`: ok? -/
  gpioInit : Option Bool
  /-- of `PWM.get_real_range` -/
  realRange : Option Int
  /-- of `PWM.get_range`; an answer of `none` is `FAIL` -/
  range : Option (Option Int)
deriving DecidableEq, Repr

/-! ### The state -/

/-- The state of the block and, below `trace`, of the world it runs in. -/
structure State where
  /-- the parameters of R6, fixed for a run: no step writes them -/
  params : Config.Params
  /-- `LS` (R22) -/
  ls : Lifecycle
  /-- `PHASE` (R23) -/
  phase : Phase
  /-- `COUNT` (R24) -/
  count : BitVec 11
  /-- `STOP_REQ` (R25) -/
  stopReq : Bool
  /-- `WR_SEL` (R26) -/
  wrSel : BankNo
  /-- `SPEED_SUM` (R28) -/
  speedSum : BitVec 23
  /-- `TARGET` (R29) -/
  target : Half
  /-- `PWM_RANGE` (R30) -/
  pwmRange : Half
  /-- `DRIVE` (R31) -/
  drive : Half
  /-- `CB_EN` (R32) -/
  cbEn : Bool
  /-- `SCAN_READY` (R33) -/
  scanReady : Bool
  /-- `ERR` (R34) -/
  err : ErrCode
  /-- `FRAME` (R61) -/
  frame : Memory
  /-- `SCAN[0]` (R27) -/
  bank0 : Bank
  /-- `SCAN[1]` (R27) -/
  bank1 : Bank
  /-- the model's: how many power-on resets came after the first (log 11) -/
  boots : Nat
  /-- the model's: how many free values have been drawn (log 3) -/
  draws : Nat
  /-- the model's: everything observed so far, oldest first (R244; log 4) -/
  trace : List Obs
  /-- the world's: the steps scheduled next (R246; log 1) -/
  turns : List Turn
  /-- the world's: the tokens waiting in the TRANSPORT, the next one first (R89, R91; log 2) -/
  rx : List Token
  /-- the world's: collaborator answers fixed for the next such request (log 3) -/
  answers : Answers
deriving DecidableEq, Repr

/-- Why the machine stops. Both are U8 of 93_implementation_defined.md ("fault: unreachable"), no run
from reset reaches them, and both are safe: the model stops in a state the hardware never holds. -/
inductive Fault where
  /-- Raised by PAYLOAD_BYTE when `COUNT` names no byte of the frame RAM (`COUNT >= 1980`). Safe. -/
  | noFrameByte (count : BitVec 11)
  /-- Raised by the fetch of an ENGINE or TRANSPORT turn in an `LS`/`PHASE` pair outside R23. Safe. -/
  | unreachablePair (ls : Lifecycle) (phase : Phase)
deriving DecidableEq, Repr

/-- Why a step has no meaning. -/
inductive Refusal where
  /-- Raised by an arm of exec whose instruction has no meaning yet. No arm uses it. Safe. -/
  | notModelled (mnemonic : String)
  /-- Raised by ADJUST when the gain parameter is outside the spec: `GAIN_NUM` 0 or at least 2^16, or
  `GAIN_DEN` 0 (R194, U17: "a model rejects the parameter"). Safe. -/
  | gainOutsideSpec
deriving DecidableEq, Repr

/-- No answer fixed. -/
def Answers.free : Answers := { transportOpen := none, gpioInit := none, realRange := none, range := none }

/-- The state right after power-on reset (R39, R260): every register at its stated value, both RAMs
with nothing written, and a world that has scheduled nothing. -/
def State.reset : State :=
  { params := Config.params
    ls := .idle, phase := .idle, count := 0#11, stopReq := false, wrSel := 0#1
    speedSum := 0#23, target := Config.params.targetReset, pwmRange := 0#16, drive := 0#16
    cbEn := false, scanReady := false, err := .none
    frame := [], bank0 := [], bank1 := []
    boots := 0, draws := 0, trace := []
    turns := [], rx := [], answers := Answers.free }

end Sys2Proof.Machine
end

