-- ==== Sys2Proof/Machine/Ops.lean ====
section
/-! DEFINITION. The named operations every meaning is built from: register codes, the two RAMs, the trace, responses, collaborator calls, free draws, the power-on reset. The block has no trap (60_exceptions.md R240), so there is no exception entry or return here; a fatal START is in Lifecycle.lean. -/

namespace Sys2Proof.Machine

/-- The three outcomes of a step of this machine. -/
abbrev Out := Host.Outcome State Fault Refusal

/-! ### Codes of the sequencing registers -/

/-- The 2-bit code of `LS` (R22). -/
def Lifecycle.code : Lifecycle → BitVec 2
  | .idle => 0#2
  | .starting => 1#2
  | .running => 2#2
  | .stopping => 3#2

/-- The 4-bit code of `PHASE` (R23). -/
def Phase.code : Phase → BitVec 4
  | .idle => 0#4
  | .top => 1#4
  | .hunt => 2#4
  | .hdr1 => 3#4
  | .payload => 4#4
  | .validate => 5#4
  | .decode => 6#4
  | .publish => 7#4
  | .adjust => 8#4
  | .notify => 9#4
  | .waitAck => 10#4
  | .stopseq => 11#4

/-- The phase of a code; codes 12 to 15 are never held (R23). -/
def Phase.ofCode (c : BitVec 4) : Option Phase :=
  match c.toNat with
  | 0 => some .idle
  | 1 => some .top
  | 2 => some .hunt
  | 3 => some .hdr1
  | 4 => some .payload
  | 5 => some .validate
  | 6 => some .decode
  | 7 => some .publish
  | 8 => some .adjust
  | 9 => some .notify
  | 10 => some .waitAck
  | 11 => some .stopseq
  | _ => none

/-- The lifecycle state a phase is held in (R23, last column). -/
def Phase.lifecycle : Phase → Lifecycle
  | .idle => .idle
  | .top | .hunt | .hdr1 | .payload | .validate | .decode | .publish | .adjust | .notify
  | .waitAck => .running
  | .stopseq => .stopping

/-- The ENGINE takes tokens in this phase (R91). -/
def Phase.takesToken : Phase → Bool
  | .hunt | .hdr1 | .payload => true
  | .idle | .top | .validate | .decode | .publish | .adjust | .notify | .waitAck | .stopseq => false

/-- The ENGINE has an internal step in this phase (R103). -/
def Phase.hasInternalStep : Phase → Bool
  | .top | .validate | .decode | .publish | .adjust | .notify | .stopseq => true
  | .idle | .hunt | .hdr1 | .payload | .waitAck => false

/-- The 4-bit code of `ERR` (R34, R241). -/
def ErrCode.code : ErrCode → BitVec 4
  | .none => 0#4
  | .gpioInit => 1#4
  | .transportOpen => 2#4
  | .pwmRange => 3#4

/-! ### Writes of one register, `x <- v` (R12) -/

/-- `LS <- v`. -/
def State.setLs (s : State) (v : Lifecycle) : State := { s with ls := v }
/-- `PHASE <- v`. -/
def State.setPhase (s : State) (v : Phase) : State := { s with phase := v }
/-- `COUNT <- v`. -/
def State.setCount (s : State) (v : BitVec 11) : State := { s with count := v }
/-- `STOP_REQ <- v`. -/
def State.setStopReq (s : State) (v : Bool) : State := { s with stopReq := v }
/-- `WR_SEL <- v`. -/
def State.setWrSel (s : State) (v : BankNo) : State := { s with wrSel := v }
/-- `SPEED_SUM <- v`. -/
def State.setSpeedSum (s : State) (v : BitVec 23) : State := { s with speedSum := v }
/-- `TARGET <- v`. -/
def State.setTarget (s : State) (v : Half) : State := { s with target := v }
/-- `PWM_RANGE <- v`. -/
def State.setPwmRange (s : State) (v : Half) : State := { s with pwmRange := v }
/-- `DRIVE <- v`. -/
def State.setDrive (s : State) (v : Half) : State := { s with drive := v }
/-- `CB_EN <- v`. -/
def State.setCbEn (s : State) (v : Bool) : State := { s with cbEn := v }
/-- `SCAN_READY <- v`. -/
def State.setScanReady (s : State) (v : Bool) : State := { s with scanReady := v }
/-- `ERR <- v`. -/
def State.setErr (s : State) (v : ErrCode) : State := { s with err := v }

/-! ### Sparse storage: pairs of key and value, keys strictly rising -/

/-- What the list holds at key `a`; `none` where nothing is listed. -/
def cellsGet {α : Type} : List (Nat × α) → Nat → Option α
  | [], _ => none
  | (k, v) :: rest, a => if k = a then some v else cellsGet rest a

/-- The list with `v` at key `a`, the keys still rising. -/
def cellsPut {α : Type} : List (Nat × α) → Nat → α → List (Nat × α)
  | [], a, v => [(a, v)]
  | (k, w) :: rest, a, v =>
    if a < k then (a, v) :: (k, w) :: rest
    else if k = a then (a, v) :: rest
    else (k, w) :: cellsPut rest a v

/-- The keys rise strictly. -/
def cellsSorted {α : Type} : List (Nat × α) → Bool
  | [] => true
  | [_] => true
  | (a, _) :: (b, w) :: rest => decide (a < b) && cellsSorted ((b, w) :: rest)

/-! ### The frame RAM (R61) -/

/-- The byte written at offset `i` since reset, if any. An unlisted offset holds no written byte: this
is what an unlisted address reads as, so no listed byte is ever equal to it (log 5). -/
def Memory.read (m : Memory) (i : Nat) : Option Byte := cellsGet m i

/-- The frame RAM with byte `b` at offset `i`. -/
def Memory.write (m : Memory) (i : Nat) (b : Byte) : Memory := cellsPut m i b

/-- The canonical form: offsets strictly rising, each the offset of a frame byte (R61). -/
def Memory.wf (m : Memory) : Bool :=
  cellsSorted m && m.all (fun c => decide (c.1 < Config.frameSize))

/-- `FRAME[i]` (R12, R61): the byte written there, or the unspecified contents of reset (R39, U2). -/
def State.frameByte (s : State) (i : Nat) : Byte :=
  (Memory.read s.frame i).getD (Config.unwrittenFrame s.boots i)

/-- `FRAME[i] <- b` (R12, R61). -/
def State.putFrame (s : State) (i : Nat) (b : Byte) : State :=
  { s with frame := Memory.write s.frame i b }

/-! ### The scan RAM (R62) -/

/-- An entry with nothing written. -/
def unwrittenCell : ScanCell :=
  { valid := none, tooClose := none, dist := none, strength := none, x := none, y := none }

/-- What a bank holds at index `j`. -/
def Bank.cell (b : Bank) (j : Nat) : ScanCell := (cellsGet b j).getD unwrittenCell

/-- The bank with entry `c` at index `j`. -/
def Bank.put (b : Bank) (j : Nat) (c : ScanCell) : Bank := cellsPut b j c

/-- The canonical form: indices strictly rising, each the index of a scan entry, no entry with nothing
written. -/
def Bank.wf (b : Bank) : Bool :=
  cellsSorted b && b.all (fun c => decide (c.1 < Config.npoints) && decide (c.2 ≠ unwrittenCell))

/-- `SCAN[k]` (R27). -/
def State.bank (s : State) (k : BankNo) : Bank := if k = 0#1 then s.bank0 else s.bank1

/-- The state with `SCAN[k]` replaced by `b`. -/
def State.putBank (s : State) (k : BankNo) (b : Bank) : State :=
  if k = 0#1 then { s with bank0 := b } else { s with bank1 := b }

/-- An entry as it is read: each field written since reset, or its unspecified contents (R262, U1). -/
def entryOf (boots : Nat) (k : BankNo) (j : Nat) (c : ScanCell) : ScanEntry :=
  { valid := c.valid.getD (Config.unwrittenValid boots k j)
    tooClose := c.tooClose.getD (Config.unwrittenTooClose boots k j)
    dist := c.dist.getD (Config.unwrittenDist boots k j)
    strength := c.strength.getD (Config.unwrittenStrength boots k j)
    x := c.x.getD (Config.unwrittenX boots k j)
    y := c.y.getD (Config.unwrittenY boots k j) }

/-- `SCAN[k][j]` (R12, R62). -/
def State.scanEntry (s : State) (k : BankNo) (j : Nat) : ScanEntry :=
  entryOf s.boots k j (Bank.cell (s.bank k) j)

/-- The stable bank, `1 - WR_SEL` (R26). -/
def State.stable (s : State) : BankNo := 1#1 - s.wrSel

/-! ### Free draws (R13, R74) -/

/-- The entry a raced READ_POINT returns: any value in every field (R74, U4). -/
def raceEntry (n : Nat) : ScanEntry :=
  { valid := Config.raceValid n, tooClose := Config.raceTooClose n, dist := Config.raceDist n
    strength := Config.raceStrength n, x := Config.raceX n, y := Config.raceY n }

/-- The state after one free value has been drawn. -/
def State.drew (s : State) : State := { s with draws := s.draws + 1 }

/-! ### The trace (R14, R244) -/

/-- The state with one more observation. -/
def State.log (s : State) (o : Obs) : State := { s with trace := s.trace ++ [o] }

/-- The status word `S` (R94). -/
def RespStatus.code : RespStatus → Word
  | .ok => 0#32
  | .badCmd => 1#32
  | .fatal => 2#32

/-- A host command's response (R94). -/
def State.respond (s : State) (st : RespStatus) (data : List Word) : State :=
  s.log (.response st.code data)

/-- The whole effect of an illegal command: status BADCMD, no data, no change of state (R95, R243). -/
def State.badCommand (s : State) : State := s.respond .badCmd []

/-! ### Collaborator calls (R13, R98): the answer is the one fixed for the request, else a free draw -/

/-- A request whose answer is none, or is ignored. -/
def State.call (s : State) (r : Request) : State := s.log (.call r .nothing)

/-- The state with `a` as the fixed answers. -/
def State.setAnswers (s : State) (a : Answers) : State := { s with answers := a }

/-- One answer fixed for the next such request, over whatever was fixed for it before (R100 `ANSWER`). -/
def Answers.fix (a : Answers) : FixedAnswer → Answers
  | .transportOpen ok => { a with transportOpen := some ok }
  | .gpioInit ok => { a with gpioInit := some ok }
  | .realRange n => { a with realRange := some n }
  | .range n => { a with range := some n }

/-- The state with one more answer fixed. -/
def State.fixAnswer (s : State) (a : FixedAnswer) : State := s.setAnswers (s.answers.fix a)

/-- The state after a draw, where one was made. -/
def State.drewIf (s : State) (made : Bool) : State := if made then s.drew else s

/-- `r <- call TRANSPORT.open(SERIAL_PATH, BAUD)`: ok or fail (R98, U9). -/
def State.callOpen (s : State) : Bool × State :=
  let a := s.answers.transportOpen.getD (Config.drawOpen s.draws)
  (a, ((s.setAnswers { s.answers with transportOpen := none }).drewIf s.answers.transportOpen.isNone).log
    (.call (.transportOpen s.params.serialPath s.params.line) (.okOrFail a)))

/-- `r <- call PWM.gpio_init()`: ok or fail (R98, U9). -/
def State.callGpioInit (s : State) : Bool × State :=
  let a := s.answers.gpioInit.getD (Config.drawGpioInit s.draws)
  (a, ((s.setAnswers { s.answers with gpioInit := none }).drewIf s.answers.gpioInit.isNone).log
    (.call .gpioInit (.okOrFail a)))

/-- `rr <- call PWM.get_real_range(PWM_CHANNEL)`: any integer (R98, U10). -/
def State.callRealRange (s : State) : Int × State :=
  let a := s.answers.realRange.getD (Config.drawRealRange s.draws)
  (a, ((s.setAnswers { s.answers with realRange := none }).drewIf s.answers.realRange.isNone).log
    (.call (.getRealRange s.params.pwmChannel) (.number a)))

/-- `g <- call PWM.get_range(PWM_CHANNEL)`: any integer, or FAIL (R98, U11). -/
def State.callRange (s : State) : Option Int × State :=
  let a := s.answers.range.getD (Config.drawRange s.draws)
  (a, ((s.setAnswers { s.answers with range := none }).drewIf s.answers.range.isNone).log
    (.call (.getRange s.params.pwmChannel) (.numberOrFail a)))

/-- `call TRANSPORT.read(n)` (R98, R121). -/
def State.requestRead (s : State) (n : Nat) : State := s.call (.transportRead n)

/-- `call PWM.write_duty(PWM_CHANNEL, DRIVE)` (R193): the duty is the drive just written. -/
def State.writeDuty (s : State) : State := s.call (.writeDuty s.params.pwmChannel s.drive)

/-! ### Power-on reset (R260) -/

/-- The power-on reset: every register at its reset value, both RAMs unspecified anew, no collaborator
called. The parameters and the world (schedule, tokens, answers, trace) are not the block's to reset
(log 11). -/
def State.powerOnReset (s : State) : State :=
  { State.reset with
    params := s.params, target := s.params.targetReset, boots := s.boots + 1, draws := s.draws, trace := s.trace
    turns := s.turns, rx := s.rx, answers := s.answers }

end Sys2Proof.Machine
end

