-- ==== Sys2Proof/Machine/FrameSync.lean ====
section
/-! DEFINITION. The frame synchronizer (40_frame_sync.md): one step per token in HUNT, HDR1 and PAYLOAD. Every step that leaves the ENGINE waiting in HUNT or HDR1 issues the next one-byte read, the match of the header the read of the payload (R121; log 14). -/

namespace Sys2Proof.Machine

/-- Hunt on from scratch: `COUNT` 0, `PHASE` HUNT, the next byte requested (R113, R114, R121). -/
def State.rehunt (s : State) : State := s |>.setCount 0#11 |>.setPhase .hunt |>.requestRead 1

/-- A fresh candidate for the first header byte: `FRAME[0] <- d`, `COUNT` 1, `PHASE` HDR1 (R111, R113). -/
def State.candidate (s : State) (d : Byte) : State :=
  s |>.putFrame 0 d |>.setCount 1#11 |>.setPhase .hdr1 |>.requestRead 1

/-- The header matched: `FRAME[1] <- d`, `COUNT` 2, `PHASE` PAYLOAD, the payload requested (R113, R121). -/
def State.headerMatched (s : State) (d : Byte) : State :=
  s |>.putFrame 1 d |>.setCount 2#11 |>.setPhase .payload |>.requestRead (Config.frameSize - 2)

/-- `HUNT_BYTE` (R111). A byte that is not `HDR0` is discarded; `COUNT` and `PHASE` stay. -/
def execHuntByte (d : Byte) (s : State) : Out :=
  .next (if d = s.params.hdr0 then s.candidate d else s.requestRead 1)

/-- `HUNT_SHORT` (R112): nothing changes; the hunt goes on with the next read. -/
def execHuntShort (_x : Byte) (s : State) : Out := .next (s.requestRead 1)

/-- `HDR1_BYTE` (R113). -/
def execHdr1Byte (d : Byte) (s : State) : Out :=
  .next (if d = s.params.hdr1 then s.headerMatched d
         else if d = s.params.hdr0 then s.candidate d
         else s.rehunt)

/-- `HDR1_SHORT` (R114): the candidate is dropped. -/
def execHdr1Short (_x : Byte) (s : State) : Out := .next s.rehunt

/-- The state after one payload byte: stored at `COUNT`; the 1980th byte ends the frame (R115). -/
def State.payloadByte (s : State) (d : Byte) : State :=
  let t := s |>.putFrame s.count.toNat d |>.setCount (s.count + 1#11)
  if t.count.toNat = Config.frameSize then t.setPhase .validate else t

/-- `PAYLOAD_BYTE` (R115). `COUNT >= 1980` in PAYLOAD is unreachable (U8) and names no frame byte. -/
def execPayloadByte (d : Byte) (s : State) : Out :=
  if s.count.toNat < Config.frameSize then .next (s.payloadByte d) else .fault (.noFrameByte s.count)

/-- `PAYLOAD_SHORT` (R116): the partial frame is dropped and the iteration ends. -/
def execPayloadShort (_x : Byte) (s : State) : Out :=
  .next (s |>.log (.drop .shortRead) |>.setCount 0#11 |>.setPhase .top)

end Sys2Proof.Machine
end

