-- ==== Sys2Proof/WellFormed.lean ====
section
/-! DEFINITION. Which instructions an assembler may write (30_encoding.md R95, R102). -/

namespace Sys2Proof

/-- The index of a READ_POINT names a scan entry: `J < 360` (R95, R102). -/
def indexInRange (j : BitVec 9) : Bool := decide (j.toNat < Config.npoints)

/-- Well-formed: the command port accepts the instruction's word. A reserved opcode and a READ_POINT
with `J >= 360` are refused (R95, R102). Every 9-bit token is legal (R90), so every token step and
every internal step is well-formed. -/
def Instr.wf : Instr → Bool
  | .readPoint _ j => indexInRange j
  | .reserved0 _ => false
  | .reservedCF _ => false
  | .start | .stop | .snapshot | .readRpm | .readDrive | .readStatus | .setTarget _ | .readTarget
  | .setCb _ | .scanAck | .huntByte _ | .huntShort _ | .hdr1Byte _ | .hdr1Short _
  | .payloadByte _ | .payloadShort _ | .top | .validate | .decode | .publish | .adjust | .notify
  | .stopseq => true

end Sys2Proof
end

