-- ==== Sys2Proof/Decode.lean ====
section
/-! DEFINITION. The decoder of the three encoded inputs (30_encoding.md R91 to R95, R103), total and rejecting by name, and the encoder written from the same tables. -/

namespace Sys2Proof

/-- Why an encoded input is no instruction. -/
inductive DecodeError where
  /-- a legal opcode with a reserved operand bit set: no row selects the word (R93, R95) -/
  | reservedBitSet (opc : BitVec 4)
  /-- the phase has no step of this kind: a token outside HUNT, HDR1 and PAYLOAD (R91), or an internal
  step in a phase that waits or in a code that is never held (R103, R23) -/
  | noSuchStep (phase : BitVec 4)
deriving DecidableEq, Repr

/-- What the decoder answers. -/
inductive Decoded where
  /-- the instruction of the selected row -/
  | instr (i : Instr)
  /-- no row selects the input -/
  | rejected (e : DecodeError)
deriving DecidableEq, Repr

/-- `a ++ b` (R8): concatenation with `a` in the high bits, at the width `w` of both together. -/
def cat {m n : Nat} (w : Nat) (a : BitVec m) (b : BitVec n) : BitVec w := (a ++ b).setWidth w

/-- `OPC = C[31:28]` (R92). -/
def opcodeOf (c : Word) : BitVec 4 := c.extractLsb' 28 4

/-- The instruction `i` if the reserved operand bits `r` are all 0, else a rejection (R92, R93). -/
def ifReservedZero {n : Nat} (c : Word) (r : BitVec n) (i : Instr) : Decoded :=
  if r = 0#n then .instr i else .rejected (.reservedBitSet (opcodeOf c))

/-- A host command word, by the opcode map of R93. -/
def decodeCommand (c : Word) : Decoded :=
  match (opcodeOf c).toNat with
  | 0x0 => .instr (.reserved0 (c.extractLsb' 0 28))
  | 0x1 => ifReservedZero c (c.extractLsb' 0 28) .start
  | 0x2 => ifReservedZero c (c.extractLsb' 0 28) .stop
  | 0x3 => ifReservedZero c (c.extractLsb' 0 28) .snapshot
  | 0x4 => ifReservedZero c (c.extractLsb' 13 15 ++ c.extractLsb' 9 3)
             (.readPoint (c.extractLsb' 12 1) (c.extractLsb' 0 9))
  | 0x5 => ifReservedZero c (c.extractLsb' 0 28) .readRpm
  | 0x6 => ifReservedZero c (c.extractLsb' 0 28) .readDrive
  | 0x7 => ifReservedZero c (c.extractLsb' 0 28) .readStatus
  | 0x8 => ifReservedZero c (c.extractLsb' 16 12) (.setTarget (c.extractLsb' 0 16))
  | 0x9 => ifReservedZero c (c.extractLsb' 0 28) .readTarget
  | 0xA => ifReservedZero c (c.extractLsb' 1 27) (.setCb (c.extractLsb' 0 1))
  | 0xB => ifReservedZero c (c.extractLsb' 0 28) .scanAck
  | _ => .instr (.reservedCF (c.extractLsb' 0 30))

/-- A phase with a token: chosen by the pair (`PHASE`, `T[8]`) (R91, R103). -/
def decodePhaseToken (p : BitVec 13) : Decoded :=
  let phase : BitVec 4 := p.extractLsb' 9 4
  let isShort : Bool := p.getLsbD 8
  let d : Byte := p.extractLsb' 0 8
  match phase.toNat, isShort with
  | 2, false => .instr (.huntByte d)
  | 2, true => .instr (.huntShort d)
  | 3, false => .instr (.hdr1Byte d)
  | 3, true => .instr (.hdr1Short d)
  | 4, false => .instr (.payloadByte d)
  | 4, true => .instr (.payloadShort d)
  | _, _ => .rejected (.noSuchStep phase)

/-- A phase alone: an internal step (R103). -/
def decodePhaseOnly (p : BitVec 4) : Decoded :=
  match p.toNat with
  | 1 => .instr .top
  | 5 => .instr .validate
  | 6 => .instr .decode
  | 7 => .instr .publish
  | 8 => .instr .adjust
  | 9 => .instr .notify
  | 11 => .instr .stopseq
  | _ => .rejected (.noSuchStep p)

/-- The decoder of every encoded input. -/
def decode : Wire → Decoded
  | .command c => decodeCommand c
  | .phaseToken p => decodePhaseToken p
  | .phaseOnly p => decodePhaseOnly p

/-! ### The encoder -/

/-- A command word: the opcode above 28 operand bits (R92). -/
def commandWord (opc : BitVec 4) (operands : BitVec 28) : Wire := .command (cat 32 opc operands)

/-- A phase with a token (R91): `PHASE ++ T[8] ++ T[7:0]`. -/
def phaseTokenWord (phase : BitVec 4) (isShort : BitVec 1) (d : Byte) : Wire :=
  .phaseToken (cat 13 phase (cat 9 isShort d))

/-- The encoded input of an instruction, every reserved bit 0 (R93, R102, R103). -/
def encode : Instr → Wire
  | .start => commandWord 0x1#4 0#28
  | .stop => commandWord 0x2#4 0#28
  | .snapshot => commandWord 0x3#4 0#28
  | .readPoint k j => commandWord 0x4#4 (cat 28 (cat 16 0#15 k) (cat 12 0#3 j))
  | .readRpm => commandWord 0x5#4 0#28
  | .readDrive => commandWord 0x6#4 0#28
  | .readStatus => commandWord 0x7#4 0#28
  | .setTarget v => commandWord 0x8#4 (v.setWidth 28)
  | .readTarget => commandWord 0x9#4 0#28
  | .setCb e => commandWord 0xA#4 (e.setWidth 28)
  | .scanAck => commandWord 0xB#4 0#28
  | .reserved0 c => commandWord 0x0#4 c
  | .reservedCF c => .command (cat 32 0x3#2 c)
  | .huntByte d => phaseTokenWord 2#4 0#1 d
  | .huntShort x => phaseTokenWord 2#4 1#1 x
  | .hdr1Byte d => phaseTokenWord 3#4 0#1 d
  | .hdr1Short x => phaseTokenWord 3#4 1#1 x
  | .payloadByte d => phaseTokenWord 4#4 0#1 d
  | .payloadShort x => phaseTokenWord 4#4 1#1 x
  | .top => .phaseOnly 1#4
  | .validate => .phaseOnly 5#4
  | .decode => .phaseOnly 6#4
  | .publish => .phaseOnly 7#4
  | .adjust => .phaseOnly 8#4
  | .notify => .phaseOnly 9#4
  | .stopseq => .phaseOnly 11#4

/-! ### The table's rows, as the spec prints them -/

/-- A row of the opcode map of R93: mnemonic, match and mask. -/
structure CommandRow where
  /-- the row's mnemonic in spec/opcode_table.json -/
  mnemonic : String
  /-- the word's value under the mask -/
  matchBits : Word
  /-- the bits the row fixes -/
  mask : Word
deriving DecidableEq, Repr

/-- `C & mask = match` (R93). -/
def CommandRow.selects (r : CommandRow) (c : Word) : Bool := decide (c &&& r.mask = r.matchBits)

/-- The opcode map of R93, row by row. -/
def commandRows : List CommandRow :=
  [ ⟨"RESERVED_0", 0x00000000#32, 0xF0000000#32⟩
  , ⟨"START", 0x10000000#32, 0xFFFFFFFF#32⟩
  , ⟨"STOP", 0x20000000#32, 0xFFFFFFFF#32⟩
  , ⟨"SNAPSHOT", 0x30000000#32, 0xFFFFFFFF#32⟩
  , ⟨"READ_POINT", 0x40000000#32, 0xFFFFEE00#32⟩
  , ⟨"READ_RPM", 0x50000000#32, 0xFFFFFFFF#32⟩
  , ⟨"READ_DRIVE", 0x60000000#32, 0xFFFFFFFF#32⟩
  , ⟨"READ_STATUS", 0x70000000#32, 0xFFFFFFFF#32⟩
  , ⟨"SET_TARGET", 0x80000000#32, 0xFFFF0000#32⟩
  , ⟨"READ_TARGET", 0x90000000#32, 0xFFFFFFFF#32⟩
  , ⟨"SET_CB", 0xA0000000#32, 0xFFFFFFFE#32⟩
  , ⟨"SCAN_ACK", 0xB0000000#32, 0xFFFFFFFF#32⟩
  , ⟨"RESERVED_C_F", 0xC0000000#32, 0xC0000000#32⟩ ]

/-! ### The decoder as the opcode table numbers its rows -/

/-- The encoded input of a table row of `nbits` bits (in whole bytes) whose bits are `w`: 8 bits hold
a `phase` row, 16 bits a `phase+token` row, more a `cmd32` row (log 10). `none` where `w` has a bit
set above the 4, 13 or 32 bits of the format. -/
def tableWire (nbits w : Nat) : Option Wire :=
  if nbits ≤ 8 then
    if w < 16 then some (.phaseOnly (BitVec.ofNat 4 w)) else none
  else if nbits ≤ 16 then
    if w < 8192 then some (.phaseToken (BitVec.ofNat 13 w)) else none
  else if w < 4294967296 then some (.command (BitVec.ofNat 32 w)) else none

/-- The instruction the decoder reads from a table row's word. -/
def decodeTableWord (nbits w : Nat) : Option Instr :=
  match tableWire nbits w with
  | none => none
  | some wire =>
    match decode wire with
    | .instr i => some i
    | .rejected _ => none

end Sys2Proof
end

