-- ==== Sys2Proof/Machine/Operands.lean ====
section
/-! DEFINITION. The operand forms of the ENGINE's steps: the fields of a frame (30_encoding.md R80 to R87). -/

namespace Sys2Proof.Machine

/-- `LE16(FRAME, i)`: the byte at the lower offset is the low byte (R9, R64). -/
def State.le16 (s : State) (i : Nat) : Half :=
  cat 16 (s.frameByte (i + 1)) (s.frameByte i)

/-- Where packet `p` starts (R66, R80). -/
def packetBase (p : Nat) : Nat := Config.pktSize * p

/-- Where chunk `c` of packet `p` starts (R66, R81). -/
def chunkBase (p c : Nat) : Nat := packetBase p + 4 + 4 * c

/-- `speed(p)` (R84). -/
def State.speed (s : State) (p : Nat) : Half := s.le16 (packetBase p + 2)

/-- `word(p, i)`, the checksum input words (R84, R87). -/
def State.word (s : State) (p i : Nat) : Half := s.le16 (packetBase p + 2 * i)

/-- `stored(p)` (R84). -/
def State.stored (s : State) (p : Nat) : Half := s.le16 (packetBase p + 20)

/-- `dist(p, c)` (R82, R84). -/
def State.dist (s : State) (p c : Nat) : BitVec 14 :=
  cat 14 ((s.frameByte (chunkBase p c + 1)).extractLsb' 0 6) (s.frameByte (chunkBase p c))

/-- `inv(p, c)` (R82, R84). -/
def State.inv (s : State) (p c : Nat) : Bool := (s.frameByte (chunkBase p c + 1)).getLsbD 7

/-- `tc(p, c)` (R82, R84). -/
def State.tc (s : State) (p c : Nat) : Bool := (s.frameByte (chunkBase p c + 1)).getLsbD 6

/-- `strength(p, c)` (R82, R84). -/
def State.strength (s : State) (p c : Nat) : Half := s.le16 (chunkBase p c + 2)

/-- The packet of point `j = 4*p + c` (R85). -/
def packetOf (j : Nat) : Nat := j / Config.nchunk

/-- The chunk of point `j = 4*p + c` (R85). -/
def chunkOf (j : Nat) : Nat := j % Config.nchunk

/-- `zext_32` of a field (R8, R94). -/
def zext32 {n : Nat} (v : BitVec n) : Word := v.setWidth 32

/-- The `D0` to `D3` data words of READ_POINT (R94, R174). -/
def pointWords (e : ScanEntry) : List Word :=
  [ cat 32 e.strength (cat 16 (cat 2 (BitVec.ofBool e.valid) (BitVec.ofBool e.tooClose)) e.dist)
  , e.x.extractLsb' 0 32
  , e.y.extractLsb' 0 32
  , zext32 (cat 16 (e.y.extractLsb' 32 8) (e.x.extractLsb' 32 8)) ]

/-- How the host puts a 40-bit coordinate together again (R175): the low byte of `hi` above `lo`. -/
def reassemble (hi : BitVec 8) (lo : Word) : BitVec 40 := cat 40 hi lo

end Sys2Proof.Machine
end

