-- ==== Sys2Proof/Machine/Motor.lean ====
section
/-! DEFINITION. The proportional motor controller (44_motor_controller.md). -/

namespace Sys2Proof.Machine

/-- `round_half_away(n, d)` (R10): the nearest integer, a tie away from zero. -/
def roundHalfAway (n : Int) (d : Nat) : Int :=
  let q : Nat := (2 * n.natAbs + d) / (2 * d)
  if 0 ≤ n then (q : Int) else -(q : Int)

/-- `clamp(v, lo, hi)` (R11). -/
def clamp (v lo hi : Int) : Int := min (max v lo) hi

/-- `MAXPWM = floor(PWM_RANGE / 2)` (R30, R191). -/
def maxPwm (range : Nat) : Nat := range / 2

/-- The error term `E`, 5760 times the difference of desired and measured RPM (R190). -/
def State.errorTerm (s : State) : Int := 90 * (s.target.toNat : Int) - (s.speedSum.toNat : Int)

/-- The rounded correction `delta` (R190). -/
def State.delta (s : State) : Int :=
  roundHalfAway (s.errorTerm * (s.pwmRange.toNat : Int) * (s.params.gainNum : Int))
    (Config.rpmScale * s.params.gainDen)

/-- The new drive (R191). -/
def State.newDrive (s : State) : Int :=
  clamp ((s.drive.toNat : Int) + s.delta) 0 (maxPwm s.pwmRange.toNat : Nat)

/-- The gain parameter is one the spec covers: positive integers, `GAIN_NUM < 2^16` (R6, R194, U17). -/
def gainInSpec (p : Config.Params) : Bool :=
  decide (0 < p.gainNum) && decide (p.gainNum < Config.gainNumBound) && decide (0 < p.gainDen)

/-- `ADJUST` (R190, R193): the duty is written every time. A gain outside the spec is refused (U17). -/
def execAdjust (s : State) : Out :=
  if gainInSpec s.params then
    .next (s |>.setDrive (BitVec.ofInt 16 s.newDrive) |>.writeDuty |>.setPhase .notify)
  else .refused .gainOutsideSpec

/-- `READ_RPM` (R195). -/
def execReadRpm (s : State) : Out := .next (s.respond .ok [zext32 s.speedSum])

/-- `READ_DRIVE` (R196). -/
def execReadDrive (s : State) : Out := .next (s.respond .ok [cat 32 s.pwmRange s.drive])

end Sys2Proof.Machine
end

