-- ==== Sys2Proof/Machine/Lifecycle.lean ====
section
/-! DEFINITION. The acquisition loop and lifecycle (45_lifecycle.md), and the two reserved command rows (30_encoding.md R95). -/

namespace Sys2Proof.Machine

/-! ### START (R210, R211) -/

/-- The one way a START fails (R210, R241): the code recorded, `LS` back to IDLE, status FATAL with
the code. What was acquired has been released before. -/
def State.fatalStart (s : State) (e : ErrCode) : State :=
  s |>.setErr e |>.setLs .idle |>.respond .fatal [zext32 e.code]

/-- The PWM range answer is FAIL, below `RANGE_MIN` or above what `PWM_RANGE` holds (R210). -/
def badRange (p : Config.Params) : Option Int → Bool
  | none => true
  | some g => decide (g < p.rangeMin) || decide (Config.rangeMax < g)

/-- The channel back to input, GPIO terminated, the transport closed (R210, R211, R216). -/
def State.releaseAll (s : State) : State :=
  s |>.call (.setMode s.params.pwmChannel .input) |>.call .gpioTerminate |>.call .transportClose

/-- `VALID <- 0` in one entry (R210). -/
def invalidatePoint (b : Bank) (j : Nat) : Bank := Bank.put b j { Bank.cell b j with valid := some false }

/-- `VALID <- 0` in every entry of a bank; the other fields stay (R210, D28). -/
@[irreducible] def invalidated (b : Bank) : Bank := (List.range Config.npoints).foldl invalidatePoint b

/-- The preset drive, `floor(floor(g / 2) / 2)` (R199, R210). -/
def presetDrive (g : Nat) : Nat := maxPwm g / 2

/-- `VALID <- 0` in every entry of both banks (R210). -/
def State.invalidateScan (s : State) : State :=
  { s with bank0 := invalidated s.bank0, bank1 := invalidated s.bank1 }

/-- The end of a successful START, with the PWM range `g` (R210): the preset duty is written before
the first measurement. -/
def State.beginRun (s : State) (g : Nat) : State :=
  s |>.setPwmRange (BitVec.ofNat 16 g) |>.setDrive (BitVec.ofNat 16 (presetDrive g)) |>.writeDuty
    |>.invalidateScan
    |>.setWrSel 0#1 |>.setSpeedSum 0#23 |>.setStopReq false |>.setScanReady false |>.setCount 0#11
    |>.setLs .running |>.setPhase .top |>.respond .ok [0#32]

/-- The PWM set-up up to the answer of `get_range` (R210): `set_range` only where the real range lies
inside the window. -/
def State.setUpPwm (s : State) : Option Int × State :=
  let c := s.params.pwmChannel
  let r := (s |>.call (.setMode c .output) |>.call (.setFrequency c s.params.pwmFreqHz)).callRealRange
  let inWindow := decide (s.params.realRangeLo < r.1) && decide (r.1 < s.params.realRangeHi)
  (if inWindow then r.2.call (.setRange c r.1) else r.2).callRange

/-- START in IDLE (R210): the first failing answer decides `ERR`, in the order open, GPIO init, range
(R246); later calls are not made. -/
def State.startSequence (s : State) : State :=
  let o := (s |>.setLs .starting |>.setErr .none).callOpen
  if !o.1 then o.2.fatalStart .transportOpen
  else
    let i := o.2.callGpioInit
    if !i.1 then (i.2.call .transportClose).fatalStart .gpioInit
    else
      let g := i.2.setUpPwm
      if badRange s.params g.1 then g.2.releaseAll.fatalStart .pwmRange
      else g.2.beginRun (g.1.getD 0).toNat

/-- `START` (R210). While not IDLE it changes nothing and answers `D0 = 1`. -/
def execStart (s : State) : Out :=
  .next (if s.ls ≠ .idle then s.respond .ok [1#32] else s.startSequence)

/-! ### STOP and the loop top (R212, R215, R216) -/

/-- `STOP` (R212). -/
def execStop (s : State) : Out :=
  .next ((if s.ls = .running then s.setStopReq true else s).respond .ok [])

/-- `TOP` (R215): the only place the stop flag is read. -/
def execTop (s : State) : Out :=
  .next (if s.stopReq then s |>.setLs .stopping |>.setPhase .stopseq
         else s |>.setCount 0#11 |>.setPhase .hunt |>.requestRead 1)

/-- `STOPSEQ` (R216). -/
def execStopseq (s : State) : Out :=
  .next (s |>.setDrive 0#16 |>.writeDuty |>.releaseAll
           |>.setStopReq false |>.setLs .idle |>.setPhase .idle)

/-! ### The consumer handshake (R217, R220, R221) -/

/-- `NOTIFY` (R217). -/
def execNotify (s : State) : Out :=
  .next (if s.cbEn then
           s |>.setScanReady true |>.log (.scanReady s.speedSum s.stable) |>.setPhase .waitAck
         else s.setPhase .top)

/-- `SCAN_ACK` (R221). -/
def execScanAck (s : State) : Out :=
  .next ((if s.phase = .waitAck then s |>.setScanReady false |>.setPhase .top else s).respond .ok [])

/-- `SET_CB` (R220). -/
def execSetCb (e : BitVec 1) (s : State) : Out :=
  .next (s |>.setCbEn (decide (e = 1#1)) |>.respond .ok [])

/-! ### The target (R219, R223) -/

/-- `SET_TARGET` (R219). -/
def execSetTarget (v : Half) (s : State) : Out := .next (s |>.setTarget v |>.respond .ok [])

/-- `READ_TARGET` (R223). -/
def execReadTarget (s : State) : Out := .next (s.respond .ok [zext32 s.target])

/-! ### The reserved command rows (R95) -/

/-- `RESERVED_0` (R95, R96): an all-zero word from an idle bus is rejected, not taken. -/
def execReserved0 (_c : BitVec 28) (s : State) : Out := .next s.badCommand

/-- `RESERVED_C_F` (R95). -/
def execReservedCF (_c : BitVec 30) (s : State) : Out := .next s.badCommand

end Sys2Proof.Machine
end

