-- ==== Sys2Proof/Machine/Flags.lean ====
section
/-! DEFINITION. The block's flags: STATUS, the read-only view of them all (10_state.md R35, R36), and the flags of a scan entry (42_scan_decoder.md R142, R145). -/

namespace Sys2Proof.Machine

/-- `STATUS` (R35): bits 31:27 and 7 read 0, the rest are the registers at the places R35 gives. -/
def State.statusWord (s : State) : Word :=
  cat 32 (cat 16 0#5 s.count)
    (cat 16 (cat 8 s.phase.code s.err.code)
      (cat 8 (cat 3 0#1 (cat 2 (BitVec.ofBool s.cbEn) (BitVec.ofBool s.scanReady)))
        (cat 5 (cat 3 (BitVec.ofBool s.stopReq) (cat 2 s.stable s.wrSel)) s.ls.code)))

/-- A chunk is skipped exactly when its invalid flag is set or its distance is 0 (R142). -/
def State.skipped (s : State) (p c : Nat) : Bool := s.inv p c || decide (s.dist p c = 0#14)

end Sys2Proof.Machine
end

