-- ==== Sys2Proof/Machine/ScanBuffer.lean ====
section
/-! DEFINITION. The dual-port scan buffer with pointer exchange (43_scan_buffer.md): PUBLISH and the host's reads of it. -/

namespace Sys2Proof.Machine

/-- `PUBLISH` (R170): the pointer exchange. -/
def execPublish (s : State) : Out := .next (s |>.setWrSel (1#1 - s.wrSel) |>.setPhase .adjust)

/-- `SNAPSHOT` (R172): which bank is stable. -/
def execSnapshot (s : State) : Out := .next (s.respond .ok [zext32 s.stable])

/-- A read of the write-target bank while acquisition runs is a race (R74). -/
def State.racing (s : State) (k : BankNo) : Bool := decide (s.ls ≠ .idle) && decide (k = s.wrSel)

/-- `READ_POINT` (R174): BADCMD for an index of 360 or more (R95), any value for a race (R74), else
the stored entry. -/
def execReadPoint (k : BankNo) (j : BitVec 9) (s : State) : Out :=
  .next (if !indexInRange j then s.badCommand
         else if s.racing k then s.drew.respond .ok (pointWords (raceEntry s.draws))
         else s.respond .ok (pointWords (s.scanEntry k j.toNat)))

/-- `READ_STATUS` (R176). -/
def execReadStatus (s : State) : Out := .next (s.respond .ok [s.statusWord])

end Sys2Proof.Machine
end

