-- ==== Sys2Proof/Machine/Converter.lean ====
section
/-! DEFINITION. The fixed-point converter of the scan decoder (42_scan_decoder.md R150 to R154) and the interpretation functions of R156 and R197. -/

namespace Sys2Proof.Machine

/-! ### The LUT ROM (R63, R151; log 13) -/

/-- `QW[0]` to `QW[9]` (R151). -/
def quarterWave0 : List Int :=
  [0, 73201, 146379, 219513, 292580, 365558, 438424, 511157, 583734, 656134]

/-- `QW[10]` to `QW[19]` (R151). -/
def quarterWave10 : List Int :=
  [728333, 800311, 872045, 943513, 1014694, 1085566, 1156107, 1226296, 1296111, 1365532]

/-- `QW[20]` to `QW[29]` (R151). -/
def quarterWave20 : List Int :=
  [1434536, 1503104, 1571214, 1638845, 1705977, 1772589, 1838662, 1904174, 1969106, 2033439]

/-- `QW[30]` to `QW[39]` (R151). -/
def quarterWave30 : List Int :=
  [2097152, 2160226, 2222642, 2284382, 2345425, 2405754, 2465350, 2524195, 2582271, 2639561]

/-- `QW[40]` to `QW[49]` (R151). -/
def quarterWave40 : List Int :=
  [2696047, 2751711, 2806537, 2860508, 2913608, 2965821, 3017130, 3067520, 3116975, 3165481]

/-- `QW[50]` to `QW[59]` (R151). -/
def quarterWave50 : List Int :=
  [3213023, 3259586, 3305157, 3349720, 3393263, 3435773, 3477236, 3517639, 3556972, 3595220]

/-- `QW[60]` to `QW[69]` (R151). -/
def quarterWave60 : List Int :=
  [3632374, 3668421, 3703351, 3737152, 3769815, 3801330, 3831687, 3860877, 3888891, 3915720]

/-- `QW[70]` to `QW[79]` (R151). -/
def quarterWave70 : List Int :=
  [3941357, 3965792, 3989020, 4011033, 4031824, 4051387, 4069715, 4086804, 4102648, 4117243]

/-- `QW[80]` to `QW[89]` (R151). -/
def quarterWave80 : List Int :=
  [4130583, 4142665, 4153485, 4163040, 4171327, 4178343, 4184087, 4188556, 4191749, 4193665]

/-- `QW[90]` (R151). -/
def quarterWave90 : List Int :=
  [4194304]

/-- The table of R151, `QW[0]` to `QW[90]` at `LUT_FRAC = 22`. -/
def quarterWave : List Int :=
  quarterWave0 ++ quarterWave10 ++ quarterWave20 ++ quarterWave30 ++ quarterWave40
    ++ quarterWave50 ++ quarterWave60 ++ quarterWave70 ++ quarterWave80 ++ quarterWave90

/-- The integer the ROM holds at `k`: the table at `LUT_FRAC = 22`, and a free value at any other, for
which the spec states none (R151; log 7). -/
def romInteger (frac k : Nat) : Int := if frac = 22 then quarterWave.getD k 0 else Config.lutEntry frac k

/-- `QW[k]`, a signed value of `LUT_WIDTH` bits (R150, R151). -/
def qw (p : Config.Params) (k : Nat) : Int := (BitVec.ofInt p.lutWidth (romInteger p.lutFrac k)).toInt

/-! ### Quadrant folding (R152) -/

/-- `S(a)` (R152). -/
def sinDeg (p : Config.Params) (a : Nat) : Int :=
  if a ≤ 90 then qw p a
  else if a ≤ 180 then qw p (180 - a)
  else if a ≤ 270 then -(qw p (a - 180))
  else -(qw p (360 - a))

/-- `C(a)` (R152). -/
def cosDeg (p : Config.Params) (a : Nat) : Int :=
  if a ≤ 90 then qw p (90 - a)
  else if a ≤ 180 then -(qw p (a - 90))
  else if a ≤ 270 then -(qw p (270 - a))
  else qw p (a - 270)

/-- `COSV(j) = -C(j)` (R152). -/
def cosv (p : Config.Params) (j : Nat) : Int := -(cosDeg p j)

/-- `SINV(j) = -S(j)` (R152). -/
def sinv (p : Config.Params) (j : Nat) : Int := -(sinDeg p j)

/-- The multiplier: the exact product as a signed value of `XY_WIDTH` bits, stored sign-extended in the
40-bit field that R27 and R94 give a coordinate (R153; log 7). -/
def product (p : Config.Params) (dist : BitVec 14) (trig : Int) : BitVec 40 :=
  (BitVec.ofInt p.xyWidth (dist.toNat * trig)).signExtend 40

/-! ### Interpretation: for the consumer and the proofs, no hardware computes them (R156, R197) -/

/-- The angle of entry `j` in degrees (R146). -/
def phiDegrees (j : Nat) : Int := (j : Int) - 180

/-- `r` in metres (R156). -/
def radiusMetres (e : ScanEntry) : Rat := (e.dist.toNat : Rat) / 1000

/-- A coordinate in metres: units of 2^-22 mm, 22 being `LUT_FRAC` (R153, R156). -/
def coordinateMetres (p : Config.Params) (v : BitVec 40) : Rat := (v.toInt : Rat) / (1000 * 2 ^ p.lutFrac)

/-- `signal_strength` (R156). -/
def signalStrength (e : ScanEntry) : Rat := (e.strength.toNat : Rat) / 65536

/-- The averaged RPM of the last accepted revolution, `SPEED_SUM / 5760` (R149, R197). -/
def State.measuredRpm (s : State) : Rat := (s.speedSum.toNat : Rat) / Config.rpmScale

/-- The desired RPM, `TARGET / 64` (R197). -/
def State.desiredRpm (s : State) : Rat := (s.target.toNat : Rat) / 64

/-- The gain, `GAIN_NUM / GAIN_DEN` (R197). -/
def State.gain (s : State) : Rat := (s.params.gainNum : Rat) / s.params.gainDen

end Sys2Proof.Machine
end

