-- ==== Sys2Proof/Machine/ScanDecoder.lean ====
section
/-! DEFINITION. The scan decoder (42_scan_decoder.md R141 to R149). -/

namespace Sys2Proof.Machine

/-- What DECODE leaves in entry `j` that held `old` (R141): a skipped chunk writes only `VALID`
(R144), a valid chunk writes every field (R143). -/
def State.decodedCell (s : State) (j : Nat) (old : ScanCell) : ScanCell :=
  let p := packetOf j
  let c := chunkOf j
  if s.skipped p c then { old with valid := some false }
  else
    { valid := some true
      tooClose := some (s.tc p c)
      dist := some (s.dist p c)
      strength := some (s.strength p c)
      x := some (product s.params (s.dist p c) (cosv s.params j))
      y := some (product s.params (s.dist p c) (sinv s.params j)) }

/-- The entry of one point written into a bank. -/
def State.decodePoint (s : State) (b : Bank) (j : Nat) : Bank :=
  Bank.put b j (s.decodedCell j (Bank.cell b j))

/-- The bank after every one of the 360 points has been decoded into it, in the order of R141. -/
@[irreducible] def State.decodedBank (s : State) (b : Bank) : Bank :=
  (List.range Config.npoints).foldl s.decodePoint b

/-- The sum of the 90 raw motor-speed fields (R148). -/
@[irreducible] def State.speedTotal (s : State) : Nat :=
  (List.range Config.npkt).foldl (fun sum p => sum + (s.speed p).toNat) 0

/-- `DECODE` (R141): the write-target bank, the speed sum, the next phase. -/
def execDecode (s : State) : Out :=
  .next (s |>.putBank s.wrSel (s.decodedBank (s.bank s.wrSel))
           |>.setSpeedSum (BitVec.ofNat 23 s.speedTotal) |>.setPhase .publish)

end Sys2Proof.Machine
end

