-- ==== Sys2Proof/Machine/Validator.lean ====
section
/-! DEFINITION. The packet checksum validator (41_packet_validator.md). -/

namespace Sys2Proof.Machine

/-- The fold of R131 over a packet's checksum words, starting from 0 (D9). -/
def foldWords (ws : List Half) : Nat := ws.foldl (fun c w => (c <<< 1) + w.toNat) 0

/-- The reduce of R132: 15 bits. -/
def reduceSum (c : Nat) : Nat := ((c &&& 0x7FFF) + (c >>> 15)) &&& 0x7FFF

/-- The ten checksum words of packet `p` (R84, R131). -/
def State.packetWords (s : State) (p : Nat) : List Half := (List.range 10).map (s.word p)

/-- `chk(p)` (R132). -/
def State.chk (s : State) (p : Nat) : Nat := reduceSum (foldWords (s.packetWords p))

/-- `pass(p)`: the computed value against all 16 bits of the stored one (R133). -/
def State.pass (s : State) (p : Nat) : Bool := decide (s.chk p = (s.stored p).toNat)

/-- Every one of the 90 packets passes (R134, R135). -/
@[irreducible] def State.frameOk (s : State) : Bool := (List.range Config.npkt).all s.pass

/-- `VALIDATE` (R134). -/
def execValidate (s : State) : Out :=
  .next (if s.frameOk then s |>.setCount 0#11 |>.setPhase .decode
         else s |>.setCount 0#11 |>.log (.drop .checksum) |>.setPhase .top)

end Sys2Proof.Machine
end

