-- ==== Sys2Proof/Machine/Dispatch.lean ====
section
/-! DEFINITION. The dispatch: one arm per instruction, one meaning per arm. -/

namespace Sys2Proof.Machine

def exec (i : Instr) (s : State) : Host.Outcome State Fault Refusal :=
  match i with
  | .start => Sys2Proof.Machine.execStart s
  | .stop => Sys2Proof.Machine.execStop s
  | .snapshot => Sys2Proof.Machine.execSnapshot s
  | .readPoint k j => Sys2Proof.Machine.execReadPoint k j s
  | .readRpm => Sys2Proof.Machine.execReadRpm s
  | .readDrive => Sys2Proof.Machine.execReadDrive s
  | .readStatus => Sys2Proof.Machine.execReadStatus s
  | .setTarget v => Sys2Proof.Machine.execSetTarget v s
  | .readTarget => Sys2Proof.Machine.execReadTarget s
  | .setCb e => Sys2Proof.Machine.execSetCb e s
  | .scanAck => Sys2Proof.Machine.execScanAck s
  | .reserved0 c => Sys2Proof.Machine.execReserved0 c s
  | .reservedCF c => Sys2Proof.Machine.execReservedCF c s
  | .huntByte d => Sys2Proof.Machine.execHuntByte d s
  | .huntShort x => Sys2Proof.Machine.execHuntShort x s
  | .hdr1Byte d => Sys2Proof.Machine.execHdr1Byte d s
  | .hdr1Short x => Sys2Proof.Machine.execHdr1Short x s
  | .payloadByte d => Sys2Proof.Machine.execPayloadByte d s
  | .payloadShort x => Sys2Proof.Machine.execPayloadShort x s
  | .top => Sys2Proof.Machine.execTop s
  | .validate => Sys2Proof.Machine.execValidate s
  | .decode => Sys2Proof.Machine.execDecode s
  | .publish => Sys2Proof.Machine.execPublish s
  | .adjust => Sys2Proof.Machine.execAdjust s
  | .notify => Sys2Proof.Machine.execNotify s
  | .stopseq => Sys2Proof.Machine.execStopseq s

end Sys2Proof.Machine
end

