-- ==== Sys2Proof/Machine/Fetch.lean ====
section
/-! DEFINITION. Which encoded input the next step takes: the schedule, the token stream, the holds (00_scope.md R3, 30_encoding.md R91, R103, 40_frame_sync.md R118, 45_lifecycle.md R218), and how an input is placed there. -/

namespace Sys2Proof.Machine

/-- What the next turn brings. -/
inductive Fetched where
  /-- the scheduled agent has no step: it is held (R118, R218, R91) -/
  | hold (s : State)
  /-- the platform applies the power-on reset (R260) -/
  | powerOn (s : State)
  /-- a collaborator answer is fixed, and no agent steps (R100) -/
  | answered (s : State)
  /-- an encoded input, and the state it is run in -/
  | input (w : Wire) (s : State)
  /-- the `LS`/`PHASE` pair is one the block never holds (R23, U8) -/
  | unreachable (ls : Lifecycle) (phase : Phase)
deriving DecidableEq, Repr

/-- The schedule with its first turn taken. -/
def State.setTurns (s : State) (ts : List Turn) : State := { s with turns := ts }

/-- The tokens that wait. -/
def State.setRx (s : State) (ts : List Token) : State := { s with rx := ts }

/-- The pair of `LS` and `PHASE` is one of R23. -/
def State.pairLegal (s : State) : Bool := decide (s.ls = s.phase.lifecycle)

/-- The ENGINE's turn: its internal step, if its phase has one (R103). -/
def fetchInternal (s : State) : Fetched :=
  if !s.pairLegal then .unreachable s.ls s.phase
  else if s.phase.hasInternalStep then .input (.phaseOnly s.phase.code) s
  else .hold s

/-- The TRANSPORT's turn: its next token, if the ENGINE takes one and there is one. Tokens wait
otherwise; the block neither sees nor loses them (R91, R118). -/
def fetchToken (s : State) : Fetched :=
  if !s.pairLegal then .unreachable s.ls s.phase
  else if s.phase.takesToken then
    match s.rx with
    | [] => .hold s
    | t :: rest => .input (.phaseToken (cat 13 s.phase.code t)) (s.setRx rest)
  else .hold s

/-- With nothing scheduled, the ENGINE goes on with its internal steps and takes the tokens that wait,
and is held where it has neither (log 1, log 12). -/
def fetchUnscheduled (s : State) : Fetched :=
  if s.phase.takesToken then fetchToken s else fetchInternal s

/-- `STATUS[1:0] = 0` (R101). -/
def State.readsIdle (s : State) : Bool := decide (s.statusWord.extractLsb' 0 2 = 0#2)

/-- The next encoded input. A poll stays scheduled until the STATUS it reads says IDLE (R101). -/
def fetch (s : State) : Fetched :=
  match s.turns with
  | [] => fetchUnscheduled s
  | .host c :: rest => .input (.command c) (s.setTurns rest)
  | .engine :: rest => fetchInternal (s.setTurns rest)
  | .transport :: rest => fetchToken (s.setTurns rest)
  | .powerOn :: rest => .powerOn (s.setTurns rest)
  | .answer a :: rest => .answered ((s.setTurns rest).fixAnswer a)
  | .pollIdle :: rest => .input (encode .readStatus) (if s.readsIdle then s.setTurns rest else s)

/-- An input that is no instruction: the command port answers BADCMD (R95); an ENGINE input of no step
is a hold, and fetch gives none. -/
def runRejected (e : DecodeError) (s : State) : Out :=
  match e with
  | .reservedBitSet _ => .next s.badCommand
  | .noSuchStep _ => .next s

/-- The state with phase `p`, and with the `LS` that goes with it (R23). -/
def State.inPhase (s : State) (p : Phase) : State := s |>.setPhase p |>.setLs p.lifecycle

/-- The state in which the next step takes the input `w`: a command word is the HOST's next word, a
token is the TRANSPORT's next token in its phase, an internal step is the ENGINE's in its phase. -/
def State.placeInput (s : State) (w : Wire) : State :=
  match w with
  | .command c => s.setTurns (.host c :: s.turns)
  | .phaseToken p =>
    match Phase.ofCode (p.extractLsb' 9 4) with
    | some ph =>
      s |>.inPhase ph |>.setTurns (.transport :: s.turns) |>.setRx (p.extractLsb' 0 9 :: s.rx)
    | none => s
  | .phaseOnly p =>
    match Phase.ofCode p with
    | some ph => s |>.inPhase ph |>.setTurns (.engine :: s.turns)
    | none => s

end Sys2Proof.Machine
end

