-- ==== Sys2Proof/Machine/Step.lean ====
section
/-! DEFINITION. One step of the machine: one atomic step of one agent (00_scope.md R2, R3). -/

namespace Sys2Proof.Machine

/-- Run one encoded input: the instruction it decodes to, or its rejection. -/
def runInput (w : Wire) (s : State) : Host.Outcome State Fault Refusal :=
  match decode w with
  | .instr i => exec i s
  | .rejected e => runRejected e s

/-- One step: the next turn of the schedule. A held agent leaves the state as it is (R118, R218). -/
def step (s : State) : Host.Outcome State Fault Refusal :=
  match fetch s with
  | .hold s' => .next s'
  | .powerOn s' => .next s'.powerOnReset
  | .answered s' => .next s'
  | .input w s' => runInput w s'
  | .unreachable l p => .fault (.unreachablePair l p)

/-- The state in which the very next step runs a table row's word (log 10). -/
def State.withFetchWord (s : State) (nbits w : Nat) : State :=
  match tableWire nbits w with
  | some wire => s.placeInput wire
  | none => s

end Sys2Proof.Machine
end

