-- ==== Sys2Proof/Machine/Script.lean ====
section
/-! DEFINITION. The transaction script of 30_encoding.md R100 to R102: a way to write down what the world does. A script line adds to the schedule, and a token line to the waiting tokens; an ANSWER is a turn of the schedule, so that it fixes the next such request after its line and none before it. -/

namespace Sys2Proof.Machine

/-- A script line (R100). A comment line adds nothing and has no constructor. -/
inductive ScriptLine where
  /-- `CMD`: one host command -/
  | cmd (i : Instr)
  /-- `RX 0x<hh>`: one RX_BYTE token -/
  | rx (d : Byte)
  /-- `RXSHORT`: one RX_SHORT token -/
  | rxShort
  /-- `RUN`: the ENGINE takes internal steps until it waits for input -/
  | run
  /-- `ANSWER <request> = <value>` -/
  | answer (a : FixedAnswer)
  /-- `CMD READ_STATUS` repeated until `STATUS[1:0] = 0`, the end of `WAITIDLE` (R101) -/
  | pollIdle
deriving DecidableEq, Repr

/-- The word the assembler writes for a command; it writes none for what it rejects, a READ_POINT with
`J >= 360` (R102), and none for what is no command. -/
def assemble (i : Instr) : Option Word :=
  if i.wf then
    match encode i with
    | .command c => some c
    | .phaseToken _ => none
    | .phaseOnly _ => none
  else none

/-- How many ENGINE turns `RUN` schedules: the longest way to a phase that waits is VALIDATE, DECODE,
PUBLISH, ADJUST, NOTIFY, TOP, STOPSEQ; a turn left over finds the ENGINE held (log 1). -/
def runTurns : Nat := 7

/-- What one script line adds to what the world does (R100). R102 says that the assembler rejects a
command and not what becomes of its script. DESIGN CHOICE (log 17): the line adds no turn, and the rest
of the script stands. -/
def State.loadLine (s : State) : ScriptLine → State
  | .cmd i =>
    match assemble i with
    | some c => { s with turns := s.turns ++ [.host c] }
    | none => s
  | .rx d => { s with turns := s.turns ++ [.transport], rx := s.rx ++ [d.setWidth 9] }
  | .rxShort => { s with turns := s.turns ++ [.transport], rx := s.rx ++ [0x100#9] }
  | .run => { s with turns := s.turns ++ List.replicate runTurns .engine }
  | .answer a => { s with turns := s.turns ++ [.answer a] }
  | .pollIdle => { s with turns := s.turns ++ [.pollIdle] }

/-- A whole script, line by line. -/
def State.loadScript (s : State) (lines : List ScriptLine) : State := lines.foldl State.loadLine s

/-! ### Pseudo-transactions (R101) -/

/-- `RXSEQ`, and `RXFRAME` for the 1980 bytes of a frame. -/
def rxSeq (bytes : List Byte) : List ScriptLine := bytes.map .rx

/-- `READSCAN k`: READ_POINT of every entry of bank `k`. -/
def readScan (k : BankNo) : List ScriptLine :=
  (List.range Config.npoints).map fun j => .cmd (.readPoint k (BitVec.ofNat 9 j))

/-- `WAITIDLE`: `RUN`, then READ_STATUS until it reads IDLE. -/
def waitIdle : List ScriptLine := [.run, .pollIdle]

end Sys2Proof.Machine
end

