-- ==== Sys2Proof/Safety.lean ====
section
/-! DEFINITION. The terms claims are made in: the registers as one value, what a step leaves unchanged, the states the block can hold, and what is expected of a frame. -/

namespace Sys2Proof.Machine

/-! ### The registers, and what a step leaves unchanged -/

/-- The registers of 10_state.md, with the parameters. -/
structure Regs where
  /-- the parameters (R6) -/
  params : Config.Params
  /-- `LS` -/
  ls : Lifecycle
  /-- `PHASE` -/
  phase : Phase
  /-- `COUNT` -/
  count : BitVec 11
  /-- `STOP_REQ` -/
  stopReq : Bool
  /-- `WR_SEL` -/
  wrSel : BankNo
  /-- `SPEED_SUM` -/
  speedSum : BitVec 23
  /-- `TARGET` -/
  target : Half
  /-- `PWM_RANGE` -/
  pwmRange : Half
  /-- `DRIVE` -/
  drive : Half
  /-- `CB_EN` -/
  cbEn : Bool
  /-- `SCAN_READY` -/
  scanReady : Bool
  /-- `ERR` -/
  err : ErrCode
deriving DecidableEq, Repr

/-- The registers of a state. -/
def State.regs (s : State) : Regs :=
  { params := s.params, ls := s.ls, phase := s.phase, count := s.count, stopReq := s.stopReq
    wrSel := s.wrSel, speedSum := s.speedSum, target := s.target, pwmRange := s.pwmRange
    drive := s.drive, cbEn := s.cbEn, scanReady := s.scanReady, err := s.err }

/-- Every byte of the frame RAM reads as before. -/
def frameKept (s t : State) : Prop := ∀ i : Nat, t.frameByte i = s.frameByte i

/-- Every entry of bank `k` reads as before. -/
def bankKept (k : BankNo) (s t : State) : Prop := ∀ j : Nat, t.scanEntry k j = s.scanEntry k j

/-- Both RAMs read as before. -/
def memoryKept (s t : State) : Prop := frameKept s t ∧ ∀ k : BankNo, bankKept k s t

/-- The world outside is as before: schedule, tokens, answers, draws, resets. -/
def worldKept (s t : State) : Prop :=
  t.turns = s.turns ∧ t.rx = s.rx ∧ t.answers = s.answers ∧ t.draws = s.draws ∧ t.boots = s.boots

/-- From `s` to `t` the registers become `r`, `obs` is observed, and nothing else changes: every byte
and every entry of the RAMs reads as before. -/
structure Effect (s t : State) (r : Regs) (obs : List Obs) : Prop where
  regs : t.regs = r
  memory : memoryKept s t
  trace : t.trace = s.trace ++ obs
  world : worldKept s t

/-! ### Command words (R93, R95) -/

/-- The rows of R93 that name a command. -/
def namedRows : List CommandRow :=
  commandRows.filter fun r => !(r.mnemonic == "RESERVED_0") && !(r.mnemonic == "RESERVED_C_F")

/-- Illegal (R95): no named row selects the word, or it is a READ_POINT with `J >= 360`. Said from the
table's match and mask, without the decoder. -/
def illegalCommand (c : Word) : Bool :=
  (namedRows.all fun r => !r.selects c)
    || (decide (c &&& 0xFFFFEE00#32 = 0x40000000#32)
        && decide (Config.npoints ≤ (c.extractLsb' 0 9).toNat))

/-! ### What the block can hold -/

/-- The values of `COUNT` in each phase (R24). -/
def countLegal (p : Phase) (c : BitVec 11) : Bool :=
  match p with
  | .hunt => decide (c.toNat = 0)
  | .hdr1 => decide (c.toNat = 1)
  | .payload => decide (2 ≤ c.toNat) && decide (c.toNat ≤ 1979)
  | .validate => decide (c.toNat = 1980)
  | .idle | .top | .decode | .publish | .adjust | .notify | .waitAck | .stopseq =>
    decide (c.toNat = 0)

/-- Frame byte `i` has been written since reset. -/
def State.frameWritten (s : State) (i : Nat) : Prop := (Memory.read s.frame i).isSome = true

/-- An entry written with `VALID = 1` holds a decoded point: a distance that is not 0 and its products
(R27, R142, R153). -/
def pointSound (p : Config.Params) (j : Nat) (c : ScanCell) : Prop :=
  c.valid = some true →
    c.tooClose.isSome = true ∧ c.strength.isSome = true ∧
    ∃ d : BitVec 14, d ≠ 0#14 ∧ c.dist = some d ∧
      c.x = some (product p d (cosv p j)) ∧ c.y = some (product p d (sinv p j))

/-- The states the block can hold: every clause is kept by every step, from any state that has them
all. -/
structure State.Inv (s : State) : Prop where
  /-- the pairs of `LS` and `PHASE` of R23 -/
  pair : s.ls = s.phase.lifecycle
  /-- the values of `COUNT` of R24 -/
  count : countLegal s.phase s.count = true
  /-- the canonical forms of the RAMs -/
  frameWf : Memory.wf s.frame = true
  bank0Wf : Bank.wf s.bank0 = true
  bank1Wf : Bank.wf s.bank1 = true
  /-- `FRAME[0 .. COUNT-1]` holds the candidate, the header first (R24, R61) -/
  written : ∀ i : Nat, i < s.count.toNat → s.frameWritten i
  header0 : 1 ≤ s.count.toNat → s.frameByte 0 = s.params.hdr0
  header1 : 2 ≤ s.count.toNat → s.frameByte 1 = s.params.hdr1
  /-- DECODE has an accepted frame before it, header included, all of it written (R134, R141) -/
  accepted : s.phase = .decode →
    s.frameOk = true ∧ (∀ i : Nat, i < Config.frameSize → s.frameWritten i)
      ∧ s.frameByte 0 = s.params.hdr0 ∧ s.frameByte 1 = s.params.hdr1
  /-- the range of `SPEED_SUM` (R28) -/
  speed : s.speedSum.toNat ≤ 5898150
  /-- the drive never passes MAXPWM (R31) -/
  drive : s.drive.toNat ≤ maxPwm s.pwmRange.toNat
  /-- a legal PWM range while acquisition runs (R30) -/
  range : s.ls ≠ .idle → s.params.rangeMin ≤ s.pwmRange.toNat
  /-- `SCAN_READY` stands exactly while the ENGINE waits for its acknowledgement (R33, R218) -/
  ready : s.scanReady = decide (s.phase = .waitAck)
  /-- no stop is pending in IDLE, and STOPSEQ has one (R25, R215) -/
  stopIdle : s.ls = .idle → s.stopReq = false
  stopStopping : s.ls = .stopping → s.stopReq = true
  /-- `ERR` is set only by a START that left `LS` IDLE (R34) -/
  error : s.err ≠ .none → s.ls = .idle
  /-- every `VALID` has been written while acquisition runs (R210, R262) -/
  valid : s.ls ≠ .idle → ∀ (k : BankNo) (j : Nat), j < Config.npoints →
    (Bank.cell (s.bank k) j).valid.isSome = true
  /-- a valid entry holds a decoded point (R27) -/
  sound : ∀ (k : BankNo) (j : Nat), pointSound s.params j (Bank.cell (s.bank k) j)

end Sys2Proof.Machine

namespace Sys2Proof

/-! ### Who may write what (R251) -/

/-- An ENGINE step: a token step or an internal step (R103). -/
def Instr.isEngineStep : Instr → Bool
  | .huntByte _ | .huntShort _ | .hdr1Byte _ | .hdr1Short _ | .payloadByte _ | .payloadShort _
  | .top | .validate | .decode | .publish | .adjust | .notify | .stopseq => true
  | .start | .stop | .snapshot | .readPoint _ _ | .readRpm | .readDrive | .readStatus
  | .setTarget _ | .readTarget | .setCb _ | .scanAck | .reserved0 _ | .reservedCF _ => false

/-- A synchronizer step (40_frame_sync.md). -/
def Instr.isSyncStep : Instr → Bool
  | .huntByte _ | .huntShort _ | .hdr1Byte _ | .hdr1Short _ | .payloadByte _ | .payloadShort _ => true
  | .top | .validate | .decode | .publish | .adjust | .notify | .stopseq
  | .start | .stop | .snapshot | .readPoint _ _ | .readRpm | .readDrive | .readStatus
  | .setTarget _ | .readTarget | .setCb _ | .scanAck | .reserved0 _ | .reservedCF _ => false

end Sys2Proof

namespace Sys2Proof.Machine

/-! ### The token stream (R89 to R91) -/

/-- The token carries a byte: `T[8] = 0` (R90). -/
def isByteToken (t : Token) : Bool := !t.getLsbD 8

/-- How many byte tokens still wait. -/
def State.bytesWaiting (s : State) : Nat := (s.rx.filter isByteToken).length

/-- The table of R122: the next phase and `COUNT` after token `t`. -/
def syncTable (p : Config.Params) (phase : Phase) (count : Nat) (t : Token) : Phase × Nat :=
  let d : Byte := t.extractLsb' 0 8
  match phase, isByteToken t with
  | .hunt, true => if d = p.hdr0 then (.hdr1, 1) else (.hunt, 0)
  | .hunt, false => (.hunt, 0)
  | .hdr1, true =>
    if d = p.hdr1 then (.payload, 2) else if d = p.hdr0 then (.hdr1, 1) else (.hunt, 0)
  | .hdr1, false => (.hunt, 0)
  | .payload, true => if count + 1 < 1980 then (.payload, count + 1) else (.validate, 1980)
  | .payload, false => (.top, 0)
  | ph, _ => (ph, count)

/-! ### What the consumer sees -/

/-- The words of a response that stand last in a trace: the status word `S` and the data words (R94). -/
def lastResponse (tr : List Obs) : Option (Word × List Word) :=
  match tr.getLast? with
  | some (.response st d) => some (st, d)
  | _ => none

/-- An observation is a duty write (R193). -/
def isDutyWrite : Obs → Bool
  | .call (.writeDuty _ _) _ => true
  | _ => false

/-- What DECODE leaves in the entry of point `j`, as it is read, when it read `old` before (R141 to
R144). -/
def decodedEntry (s : State) (j : Nat) (old : ScanEntry) : ScanEntry :=
  let p := j / 4
  let c := j % 4
  if s.inv p c = true ∨ s.dist p c = 0#14 then { old with valid := false }
  else
    { valid := true, tooClose := s.tc p c, dist := s.dist p c, strength := s.strength p c
      x := product s.params (s.dist p c) (cosv s.params j)
      y := product s.params (s.dist p c) (sinv s.params j) }

end Sys2Proof.Machine
end

