-- ==== Sys2Proof/Certificates/Slice0/Obligations.lean ====
section
/-! DEFINITION. The statements for the provers. Each says in its docstring which rule of spec/ it formalises; where it rests on a choice of the model, the docstring names the log entry. A statement about every state quantifies over the parameters of R6 too, which State carries: it holds at every value of each, the stated ones among them, unless it says at which (log 7). Status words of responses are the numbers of R94: 0 OK, 1 BADCMD, 2 FATAL. -/

open Sys2Proof Sys2Proof.Machine

/-! ### Encodings (30_encoding.md) -/

/-- Decoding what the encoder writes gives the instruction back, every operand at every value. -/
def Obligations.DecodeOfEncodeIsIdentity : Prop :=
  ∀ i : Instr, decode (encode i) = .instr i

/-- Encoding what was decoded gives the input back: the decoder drops no bit, and no two inputs decode
to one instruction. -/
def Obligations.EncodeOfDecodeIsIdentity : Prop :=
  ∀ (w : Wire) (i : Instr), decode w = .instr i → encode i = w

/-- Words the spec writes out (95_test_vectors.md section 3, opcode_table.json) decode to what it says
they are. -/
def Obligations.SpecWordsDecode : Prop :=
  decode (.command 0x10000000#32) = .instr .start
  ∧ decode (.command 0x40001167#32) = .instr (.readPoint 1#1 359#9)
  ∧ decode (.command 0x40000168#32) = .instr (.readPoint 0#1 360#9)
  ∧ decode (.command 0x40000200#32) = .rejected (.reservedBitSet 4#4)
  ∧ decode (.command 0x80003E80#32) = .instr (.setTarget 16000#16)
  ∧ decode (.command 0xA0000001#32) = .instr (.setCb 1#1)
  ∧ decode (.command 0xF0000000#32) = .instr (.reservedCF 0x30000000#30)
  ∧ decode (.phaseToken 0b0010011111010#13) = .instr (.huntByte 0xFA#8)
  ∧ decode (.phaseToken 0b0100100000000#13) = .instr (.payloadShort 0#8)
  ∧ decode (.phaseOnly 0b1011#4) = .instr .stopseq

/-- R93: a word selects a row when `C & mask = match`, at most one row selects it, the decoder follows
that row, and the operands are the row's fields. -/
def Obligations.CommandRowsSelectTheDecodedWord : Prop :=
  ∀ c : Word,
    (∀ i : Instr, decode (.command c) = .instr i →
      ∃ r ∈ commandRows, r.mnemonic = i.mnemonic ∧ c &&& r.mask = r.matchBits
        ∧ ∀ r' ∈ commandRows, c &&& r'.mask = r'.matchBits → r' = r)
    ∧ (∀ e : DecodeError, decode (.command c) = .rejected e →
      ∀ r ∈ commandRows, c &&& r.mask ≠ r.matchBits)
    ∧ (∀ k j, decode (.command c) = .instr (.readPoint k j) →
      k = c.extractLsb' 12 1 ∧ j = c.extractLsb' 0 9)
    ∧ (∀ v, decode (.command c) = .instr (.setTarget v) → v = c.extractLsb' 0 16)
    ∧ (∀ e, decode (.command c) = .instr (.setCb e) → e = c.extractLsb' 0 1)

/-- R95: an illegal word is answered BADCMD, with no data and no change to any state, in every state. -/
def Obligations.IllegalWordsChangeNothing : Prop :=
  ∀ (s : State) (c : Word) (rest : List Turn),
    s.turns = .host c :: rest → illegalCommand c = true →
    ∃ t, step s = .next t ∧ Effect (s.setTurns rest) t s.regs [.response 1#32 []]

/-- A word that is not illegal is answered with OK (0) or FATAL (2), never BADCMD (1), in every state: no command is
restricted to a mode, and no command stops the machine. -/
def Obligations.LegalWordsAreNeverRefused : Prop :=
  ∀ (s : State) (c : Word) (rest : List Turn),
    s.turns = .host c :: rest → illegalCommand c = false →
    ∃ t st d, step s = .next t ∧ lastResponse t.trace = some (st, d) ∧ (st = 0#32 ∨ st = 2#32)

/-- The reserved opcodes, an all-zero word among them, answer BADCMD and change nothing. -/
def Obligations.ReservedOpcodesAnswerBadCmd : Prop :=
  ∀ (s : State) (c : BitVec 28) (e : BitVec 30),
    (∃ t, exec (.reserved0 c) s = .next t ∧ Effect s t s.regs [.response 1#32 []])
    ∧ ∃ t, exec (.reservedCF e) s = .next t ∧ Effect s t s.regs [.response 1#32 []]

/-- The only stops of exec, and exactly when: PAYLOAD_BYTE with a `COUNT` that names no frame byte
(unreachable by U8 of 93_implementation_defined.md; log 9) and ADJUST with a gain outside the spec (R194,
U17; log 8). Every other instruction gives a next state from every state. -/
def Obligations.ExecStopsOnlyHere : Prop :=
  ∀ (i : Instr) (s : State),
    (∀ f, exec i s = .fault f ↔
      (∃ d, i = .payloadByte d) ∧ 1980 ≤ s.count.toNat ∧ f = .noFrameByte s.count)
    ∧ (∀ r, exec i s = .refused r ↔
      i = .adjust ∧ (s.params.gainNum = 0 ∨ 65536 ≤ s.params.gainNum ∨ s.params.gainDen = 0)
        ∧ r = .gainOutsideSpec)

/-! ### The step -/

/-- The next turn's input runs as the instruction it decodes to, in the state with that turn taken and,
for a token, that token taken from the TRANSPORT. With nothing scheduled the ENGINE goes on by itself
(the model's choice, log 1). An ANSWER of a script fixes the next such request's answer from its turn on, and a
poll gives READ_STATUS until STATUS says IDLE (R100, R101; log 1, log 3). -/
def Obligations.StepRunsTheDecodedInstruction : Prop :=
  ∀ (s : State) (i : Instr) (rest : List Turn) (t : Token) (more : List Token),
    (∀ c, s.turns = .host c :: rest → decode (.command c) = .instr i →
      step s = exec i (s.setTurns rest))
    ∧ (s.ls = s.phase.lifecycle → s.phase.hasInternalStep = true →
      decode (.phaseOnly s.phase.code) = .instr i →
      (s.turns = .engine :: rest → step s = exec i (s.setTurns rest))
      ∧ (s.turns = [] → step s = exec i s))
    ∧ (s.ls = s.phase.lifecycle → s.phase.takesToken = true → s.rx = t :: more →
      decode (.phaseToken (cat 13 s.phase.code t)) = .instr i →
      (s.turns = .transport :: rest → step s = exec i ((s.setTurns rest).setRx more))
      ∧ (s.turns = [] → step s = exec i (s.setRx more)))
    ∧ (∀ a, s.turns = .answer a :: rest → step s = .next ((s.setTurns rest).fixAnswer a))
    ∧ (s.turns = .pollIdle :: rest →
      step s = exec .readStatus (if s.ls = .idle then s.setTurns rest else s))

/-- R118: in HUNT, HDR1 and PAYLOAD with no token delivered the ENGINE is held, with no timeout: no step
of any agent moves it. (The power-on reset, which is no agent's step, does: log 11.) -/
def Obligations.StalledTransportHoldsTheEngine : Prop :=
  ∀ s t : State, s.ls = .running → s.phase.takesToken = true → s.rx = [] →
    s.turns.head? ≠ some .powerOn → step s = .next t →
    t.ls = .running ∧ t.phase = s.phase ∧ t.count = s.count ∧ frameKept s t ∧ ∀ k, bankKept k s t

/-- A held agent changes nothing: an ENGINE turn in a phase with no internal step, and a TRANSPORT turn
where the ENGINE takes no token or none has come. The tokens wait, none is lost. -/
def Obligations.HeldAgentsChangeNothing : Prop :=
  ∀ (s : State) (rest : List Turn), s.ls = s.phase.lifecycle →
    (s.turns = .engine :: rest ∧ s.phase.hasInternalStep = false
      ∨ s.turns = .transport :: rest ∧ (s.phase.takesToken = false ∨ s.rx = [])) →
    ∃ t, step s = .next t ∧ t.rx = s.rx ∧ t.turns = rest ∧ Effect (s.setTurns rest) t s.regs []

/-- R218: in WAIT_ACK no step but the host's SCAN_ACK moves the ENGINE, no token is taken, no read is
requested, and the stable bank does not change. (The power-on reset apart: log 11.) -/
def Obligations.WaitAckIsLeftOnlyByScanAck : Prop :=
  ∀ s t : State, s.ls = .running → s.phase = .waitAck →
    s.turns.head? ≠ some .powerOn → step s = .next t →
    t.rx = s.rx ∧ t.wrSel = s.wrSel ∧ bankKept s.stable s t ∧ bankKept s.wrSel s t
    ∧ (∃ obs, t.trace = s.trace ++ obs ∧ ∀ n a, Obs.call (.transportRead n) a ∉ obs)
    ∧ (if s.turns.head? = some (.host 0xB0000000#32) then t.phase = .top ∧ t.scanReady = false
       else t.phase = .waitAck ∧ t.scanReady = s.scanReady)

/-! ### The frame synchronizer (40_frame_sync.md) -/

/-- R111: HUNT_BYTE. -/
def Obligations.HuntByteLooksForTheFirstHeaderByte : Prop :=
  ∀ (d : Byte) (s : State), ∃ t, exec (.huntByte d) s = .next t ∧ worldKept s t
    ∧ (∀ k, bankKept k s t)
    ∧ (if d = s.params.hdr0 then
         t.regs = { s.regs with count := 1#11, phase := .hdr1 }
           ∧ t.frameByte 0 = d ∧ ∀ i, i ≠ 0 → t.frameByte i = s.frameByte i
       else t.regs = s.regs ∧ frameKept s t)

/-- R113: HDR1_BYTE; when both header bytes are equal the first test wins. -/
def Obligations.Hdr1ByteMatchesOrResynchronizes : Prop :=
  ∀ (d : Byte) (s : State), ∃ t, exec (.hdr1Byte d) s = .next t ∧ worldKept s t
    ∧ (∀ k, bankKept k s t)
    ∧ (if d = s.params.hdr1 then
         t.regs = { s.regs with count := 2#11, phase := .payload }
           ∧ t.frameByte 1 = d ∧ ∀ i, i ≠ 1 → t.frameByte i = s.frameByte i
       else if d = s.params.hdr0 then
         t.regs = { s.regs with count := 1#11, phase := .hdr1 }
           ∧ t.frameByte 0 = d ∧ ∀ i, i ≠ 0 → t.frameByte i = s.frameByte i
       else t.regs = { s.regs with count := 0#11, phase := .hunt } ∧ frameKept s t)

/-- R112, R114: a short read before any payload byte: nothing in HUNT, the candidate dropped in HDR1. -/
def Obligations.ShortReadsBeforeThePayload : Prop :=
  ∀ (x : Byte) (s : State),
    (∃ t, exec (.huntShort x) s = .next t ∧ t.regs = s.regs ∧ memoryKept s t ∧ worldKept s t)
    ∧ ∃ t, exec (.hdr1Short x) s = .next t
      ∧ t.regs = { s.regs with count := 0#11, phase := .hunt } ∧ memoryKept s t ∧ worldKept s t

/-- R115: PAYLOAD_BYTE stores the byte at offset `COUNT` and nowhere else; the 1980th ends the frame. -/
def Obligations.PayloadByteStoresAtCount : Prop :=
  ∀ (d : Byte) (s : State), s.phase = .payload → s.count.toNat < 1980 →
    ∃ t, exec (.payloadByte d) s = .next t ∧ worldKept s t ∧ (∀ k, bankKept k s t)
      ∧ t.count.toNat = s.count.toNat + 1
      ∧ t.regs = { s.regs with
          count := t.count
          phase := if s.count.toNat + 1 = 1980 then .validate else .payload }
      ∧ t.trace = s.trace
      ∧ t.frameByte s.count.toNat = d
      ∧ ∀ i, i ≠ s.count.toNat → t.frameByte i = s.frameByte i

/-- R116: PAYLOAD_SHORT drops the partial frame and ends the iteration. -/
def Obligations.PayloadShortDropsTheFrame : Prop :=
  ∀ (x : Byte) (s : State), ∃ t, exec (.payloadShort x) s = .next t
    ∧ Effect s t { s.regs with count := 0#11, phase := .top } [.drop .shortRead]

/-- The table of R122 is complete: in every synchronizer phase every token has its row, and the step
goes where the row says. -/
def Obligations.SynchronizerTableIsComplete : Prop :=
  ∀ (s : State) (tok : Token) (rest : List Turn) (more : List Token),
    s.ls = .running → s.phase.takesToken = true → countLegal s.phase s.count = true →
    s.turns = .transport :: rest → s.rx = tok :: more →
    ∃ t, step s = .next t ∧ t.turns = rest ∧ t.rx = more
      ∧ (t.phase, t.count.toNat) = syncTable s.params s.phase s.count.toNat tok

/-- The synchronizer's contract (R110, R80): from HUNT, 1980 byte tokens that open with the two header
bytes are collected whole, in order and from offset 0, whatever bytes follow the header; the ENGINE is then
at VALIDATE, nothing else has changed and the tokens behind the frame still wait. (How the schedule and the
waiting tokens are held is the model's: log 1, log 2.) -/
def Obligations.WholeFrameIsCollected : Prop :=
  ∀ (s : State) (bytes : List Byte) (rest : List Turn) (more : List Token),
    s.ls = .running → s.phase = .hunt → bytes.length = 1980 →
    bytes.getD 0 0#8 = s.params.hdr0 → bytes.getD 1 0#8 = s.params.hdr1 →
    s.turns = List.replicate 1980 .transport ++ rest →
    s.rx = bytes.map (fun d => d.setWidth 9) ++ more →
    ∃ t, Host.Core.run Sys2Proof.core 1980 s = .next t
      ∧ t.regs = { s.regs with phase := .validate, count := 1980#11 }
      ∧ (∀ i, i < 1980 → t.frameByte i = bytes.getD i 0#8)
      ∧ (∀ k, bankKept k s t) ∧ t.turns = rest ∧ t.rx = more

/-- Resynchronization is from scratch: after a failed header test, `PHASE`, `COUNT` and the candidate are
what HUNT_BYTE gives for the same byte, whatever came before either. -/
def Obligations.ResynchronizationForgetsThePast : Prop :=
  ∀ (d : Byte) (s u : State), s.params = u.params → s.phase = .hdr1 → u.phase = .hunt →
    u.count = 0#11 → d ≠ s.params.hdr1 →
    ∃ t v, exec (.hdr1Byte d) s = .next t ∧ exec (.huntByte d) u = .next v
      ∧ t.phase = v.phase ∧ t.count = v.count
      ∧ (t.count = 1#11 → t.frameByte 0 = v.frameByte 0)

/-- Which reads the synchronizer requests (R121 as the model reads it: a one-byte read is over when its
byte or its short has come, so each step that stays in HUNT or HDR1 requests the next; log 14). -/
def Obligations.SynchronizerReadRequests : Prop :=
  ∀ (d : Byte) (s : State),
    (∃ t, exec (.huntByte d) s = .next t
      ∧ t.trace = s.trace ++ [.call (.transportRead 1) .nothing])
    ∧ (∃ t, exec (.huntShort d) s = .next t
      ∧ t.trace = s.trace ++ [.call (.transportRead 1) .nothing])
    ∧ (∃ t, exec (.hdr1Byte d) s = .next t
      ∧ t.trace = s.trace ++
          [.call (.transportRead (if d = s.params.hdr1 then 1978 else 1)) .nothing])
    ∧ ∃ t, exec (.hdr1Short d) s = .next t
      ∧ t.trace = s.trace ++ [.call (.transportRead 1) .nothing]

/-! ### The packet checksum validator (41_packet_validator.md) -/

/-- R131, R132: the fold is the sum of the words weighted by `2^(9-i)` and never exceeds 67042305; the
reduce keeps 15 bits of a sum of at most 34812. -/
def Obligations.ChecksumFoldsAndReduces : Prop :=
  ∀ (s : State) (p : Nat),
    foldWords (s.packetWords p) = ∑ i ∈ Finset.range 10, (s.word p i).toNat * 2 ^ (9 - i)
    ∧ foldWords (s.packetWords p) ≤ 67042305
    ∧ foldWords (s.packetWords p) < 2 ^ 26
    ∧ s.chk p = (foldWords (s.packetWords p) % 2 ^ 15 + foldWords (s.packetWords p) / 2 ^ 15) % 2 ^ 15
    ∧ foldWords (s.packetWords p) / 2 ^ 15 ≤ 2045
    ∧ foldWords (s.packetWords p) % 2 ^ 15 + foldWords (s.packetWords p) / 2 ^ 15 ≤ 34812

/-- R133: all 16 bits are compared; a stored value with bit 15 set never passes. -/
def Obligations.ChecksumCompareIsSixteenBits : Prop :=
  ∀ (s : State) (p : Nat),
    (s.pass p = true ↔ s.chk p = (s.stored p).toNat)
    ∧ ((s.stored p).getLsbD 15 = true → s.pass p = false)

/-- R134, R135: VALIDATE accepts a frame only if every one of the 90 packets passes; a failure drops the
whole frame. -/
def Obligations.ValidateIsAllOrNothing : Prop :=
  ∀ s : State, ∃ t, exec .validate s = .next t
    ∧ ((∀ p, p < 90 → s.pass p = true) →
        Effect s t { s.regs with count := 0#11, phase := .decode } [])
    ∧ ((∃ p, p < 90 ∧ s.pass p = false) →
        Effect s t { s.regs with count := 0#11, phase := .top } [.drop .checksum])

/-- R136: flipping any one bit of the first 20 bytes of a packet changes its checksum, flipping any bit
of the last two changes the stored value alone, so every single-bit error makes a packet fail. -/
def Obligations.SingleBitErrorsAreCaught : Prop :=
  ∀ (s : State) (p off bit : Nat), off < 22 → bit < 8 →
    let a := 22 * p + off
    let t := s.putFrame a (s.frameByte a ^^^ BitVec.twoPow 8 bit)
    (off < 20 → t.chk p ≠ s.chk p)
    ∧ (20 ≤ off → t.chk p = s.chk p ∧ t.stored p ≠ s.stored p)
    ∧ (s.pass p = true → t.pass p = false)

/-- R137: setting bit `b` of word `i` and clearing bit `b + 1` of word `i + 1` is not caught. -/
def Obligations.SomeTwoBitErrorsPass : Prop :=
  ∀ (s t : State) (p i b : Nat), i ≤ 8 → b ≤ 14 →
    (s.word p i).getLsbD b = false → (s.word p (i + 1)).getLsbD (b + 1) = true →
    t.word p i = s.word p i ||| BitVec.twoPow 16 b →
    t.word p (i + 1) = s.word p (i + 1) &&& ~~~(BitVec.twoPow 16 (b + 1)) →
    (∀ n, n ≠ i → n ≠ i + 1 → t.word p n = s.word p n) →
    foldWords (t.packetWords p) = foldWords (s.packetWords p) ∧ t.chk p = s.chk p

/-- R138: 20 zero bytes have checksum 0, 22 zero bytes pass; in an accepted frame packet 0 is all zeros only
if both header bytes are 0. -/
def Obligations.AllZeroPacketPasses : Prop :=
  (∀ (s : State) (p : Nat), (∀ off, off < 20 → s.frameByte (22 * p + off) = 0#8) →
    foldWords (s.packetWords p) = 0 ∧ s.chk p = 0)
  ∧ (∀ (s : State) (p : Nat), (∀ off, off < 22 → s.frameByte (22 * p + off) = 0#8) → s.pass p = true)
  ∧ ∀ s : State, s.Inv → s.phase = .decode → (∀ off, off < 22 → s.frameByte off = 0#8) →
    s.params.hdr0 = 0#8 ∧ s.params.hdr1 = 0#8

/-! ### The scan decoder and converter (42_scan_decoder.md) -/

/-- R141 to R144, R147, R148: DECODE writes every entry of the write-target bank and nothing of the
other; a skipped chunk writes only `VALID`; the speed sum is the exact sum of the 90 fields, which 23
bits always hold; the frame is read, not written. -/
def Obligations.DecodeWritesTheWriteTarget : Prop :=
  ∀ s : State, ∃ t, exec .decode s = .next t
    ∧ t.regs = { s.regs with speedSum := t.speedSum, phase := .publish }
    ∧ t.speedSum.toNat = ∑ p ∈ Finset.range 90, (s.speed p).toNat
    ∧ t.speedSum.toNat ≤ 5898150
    ∧ (∀ j, j < 360 → t.scanEntry s.wrSel j = decodedEntry s j (s.scanEntry s.wrSel j))
    ∧ (∀ j, 360 ≤ j → t.scanEntry s.wrSel j = s.scanEntry s.wrSel j)
    ∧ bankKept s.stable s t ∧ frameKept s t ∧ t.trace = s.trace ∧ worldKept s t

/-- R153, R154: at the widths of R6 the stored coordinates are the exact products, at most `16383 * 2^22` in
size; each has the sign of its LUT value, and at a distance that is not 0 it is 0 exactly on its axis. -/
def Obligations.ConverterIsExact : Prop :=
  ∀ (p : Config.Params) (d : BitVec 14) (j : Nat), p.statedWidths → j < 360 →
    (product p d (cosv p j)).toInt = d.toNat * cosv p j ∧ |(d.toNat : Int) * cosv p j| ≤ 68715282432
    ∧ (product p d (sinv p j)).toInt = d.toNat * sinv p j ∧ |(d.toNat : Int) * sinv p j| ≤ 68715282432
    ∧ (d ≠ 0#14 →
      (product p d (cosv p j)).toInt.sign = (cosv p j).sign
      ∧ (product p d (sinv p j)).toInt.sign = (sinv p j).sign
      ∧ (product p d (cosv p j) = 0#40 ↔ j = 90 ∨ j = 270)
      ∧ (product p d (sinv p j) = 0#40 ↔ j = 0 ∨ j = 180))

/-- R152, R155: COSV and SINV are the negated quadrant foldings of the ROM, at most 2^22 in size. At the widths
of R6 no ROM entry is more than 0.48966 units from the real sine, and one comes as close to that as 0.48965;
so every folded LUT value is the nearest integer, and every stored coordinate is within 1.92 micrometres of
`r cos phi` and `r sin phi` in metres (R156). -/
def Obligations.ConverterIsAccurate : Prop :=
  ∀ p : Config.Params, p.statedWidths →
    (∀ k : Nat, k ≤ 90 → |(qw p k : ℝ) - 2 ^ 22 * Real.sin (k * Real.pi / 180)| ≤ 0.48966)
    ∧ (∃ k : Nat, k ≤ 90 ∧ 0.48965 < |(qw p k : ℝ) - 2 ^ 22 * Real.sin (k * Real.pi / 180)|)
    ∧ ∀ (d : BitVec 14) (j : Nat), j < 360 →
      cosv p j = -(if j ≤ 90 then qw p (90 - j) else if j ≤ 180 then -qw p (j - 90)
        else if j ≤ 270 then -qw p (270 - j) else qw p (j - 270))
      ∧ sinv p j = -(if j ≤ 90 then qw p j else if j ≤ 180 then qw p (180 - j)
        else if j ≤ 270 then -qw p (j - 180) else -qw p (360 - j))
      ∧ |cosv p j| ≤ 4194304 ∧ |sinv p j| ≤ 4194304
      ∧ |(cosv p j : ℝ) - 2 ^ 22 * Real.cos (phiDegrees j * Real.pi / 180)| ≤ 0.48966
      ∧ |(sinv p j : ℝ) - 2 ^ 22 * Real.sin (phiDegrees j * Real.pi / 180)| ≤ 0.48966
      ∧ |((coordinateMetres p (product p d (cosv p j)) : Rat) : ℝ)
          - (d.toNat : ℝ) / 1000 * Real.cos (phiDegrees j * Real.pi / 180)| < 192 / 10 ^ 8
      ∧ |((coordinateMetres p (product p d (sinv p j)) : Rat) : ℝ)
          - (d.toNat : ℝ) / 1000 * Real.sin (phiDegrees j * Real.pi / 180)| < 192 / 10 ^ 8

/-! ### The scan buffer (43_scan_buffer.md) -/

/-- R170: PUBLISH exchanges the roles of the banks. -/
def Obligations.PublishExchangesTheBanks : Prop :=
  ∀ s : State, ∃ t, exec .publish s = .next t
    ∧ Effect s t { s.regs with wrSel := 1#1 - s.wrSel, phase := .adjust } []
    ∧ t.stable = s.wrSel

/-- R172, R195, R196, R223: what SNAPSHOT, READ_RPM, READ_DRIVE and READ_TARGET answer; none changes
anything. -/
def Obligations.RegisterReadsAnswer : Prop :=
  ∀ s : State,
    (∃ t d, exec .snapshot s = .next t ∧ Effect s t s.regs [.response 0#32 [d]]
      ∧ d.toNat = 1 - s.wrSel.toNat)
    ∧ (∃ t d, exec .readRpm s = .next t ∧ Effect s t s.regs [.response 0#32 [d]]
      ∧ d.toNat = s.speedSum.toNat)
    ∧ (∃ t d, exec .readDrive s = .next t ∧ Effect s t s.regs [.response 0#32 [d]]
      ∧ d.toNat = s.pwmRange.toNat * 65536 + s.drive.toNat)
    ∧ ∃ t d, exec .readTarget s = .next t ∧ Effect s t s.regs [.response 0#32 [d]]
      ∧ d.toNat = s.target.toNat

/-- R35, R176: READ_STATUS answers STATUS, every field at its place, the reserved bits 0. -/
def Obligations.StatusWordHasEveryField : Prop :=
  ∀ s : State, ∃ t d, exec .readStatus s = .next t ∧ Effect s t s.regs [.response 0#32 [d]]
    ∧ d.extractLsb' 0 2 = s.ls.code ∧ d.extractLsb' 2 1 = s.wrSel ∧ d.extractLsb' 3 1 = s.stable
    ∧ d.getLsbD 4 = s.stopReq ∧ d.getLsbD 5 = s.scanReady ∧ d.getLsbD 6 = s.cbEn
    ∧ d.getLsbD 7 = false ∧ d.extractLsb' 8 4 = s.err.code ∧ d.extractLsb' 12 4 = s.phase.code
    ∧ d.extractLsb' 16 11 = s.count ∧ d.extractLsb' 27 5 = 0#5

/-- R174, R175: READ_POINT of an index of 360 or more answers BADCMD; of the write-target bank while
acquisition runs it is a race and answers some entry's words, which nothing fixes (log 6); else it
answers the stored entry, field by field, and the host can put both coordinates together again. It
changes nothing of the block in any case (a race takes one of the model's draws). -/
def Obligations.ReadPointAnswers : Prop :=
  ∀ (s : State) (k : BankNo) (j : BitVec 9),
    (360 ≤ j.toNat → ∃ t, exec (.readPoint k j) s = .next t
      ∧ Effect s t s.regs [.response 1#32 []])
    ∧ (j.toNat < 360 → s.ls ≠ .idle → k = s.wrSel →
      ∃ t e, exec (.readPoint k j) s = .next t ∧ t.regs = s.regs ∧ memoryKept s t
        ∧ t.turns = s.turns ∧ t.rx = s.rx ∧ t.answers = s.answers ∧ t.boots = s.boots
        ∧ t.trace = s.trace ++ [.response 0#32 (pointWords e)])
    ∧ (j.toNat < 360 → (s.ls = .idle ∨ k ≠ s.wrSel) →
      ∃ t d0 d1 d2 d3, exec (.readPoint k j) s = .next t
        ∧ Effect s t s.regs [.response 0#32 [d0, d1, d2, d3]]
        ∧ d0.extractLsb' 0 14 = (s.scanEntry k j.toNat).dist
        ∧ d0.getLsbD 14 = (s.scanEntry k j.toNat).tooClose
        ∧ d0.getLsbD 15 = (s.scanEntry k j.toNat).valid
        ∧ d0.extractLsb' 16 16 = (s.scanEntry k j.toNat).strength
        ∧ reassemble (d3.extractLsb' 0 8) d1 = (s.scanEntry k j.toNat).x
        ∧ reassemble (d3.extractLsb' 8 8) d2 = (s.scanEntry k j.toNat).y
        ∧ d3.extractLsb' 16 16 = 0#16)

/-- R171: only DECODE, on bank `WR_SEL`, and START, clearing `VALID`, write the scan RAM: but for START no
instruction writes the stable bank, and START changes no field but `VALID`. -/
def Obligations.OnlyDecodeAndStartWriteTheScanRam : Prop :=
  ∀ (i : Instr) (s t : State), exec i s = .next t →
    (i ≠ .start → bankKept s.stable s t)
    ∧ (i ≠ .start → i ≠ .decode → bankKept s.wrSel s t)
    ∧ (i = .start → ∀ k j,
        { t.scanEntry k j with valid := false } = { s.scanEntry k j with valid := false })

/-- A SNAPSHOT after a PUBLISH names the bank DECODE has just written, and that bank holds the decoded
revolution whole. -/
def Obligations.SnapshotAfterPublishSeesTheRevolution : Prop :=
  ∀ s : State, ∃ a b c, exec .decode s = .next a ∧ exec .publish a = .next b
    ∧ exec .snapshot b = .next c
    ∧ lastResponse c.trace = some (0#32, [s.wrSel.setWidth 32])
    ∧ ∀ j, j < 360 → c.scanEntry s.wrSel j = decodedEntry s j (s.scanEntry s.wrSel j)

/-- R177: the bank of the event is the bank DECODE wrote, and SNAPSHOT's answer at that time. -/
def Obligations.CallbackBankIsTheSnapshotBank : Prop :=
  ∀ s : State, gainInSpec s.params = true → s.cbEn = true →
    ∃ a b c, exec .publish s = .next a ∧ exec .adjust a = .next b ∧ exec .notify b = .next c
      ∧ c.trace.getLast? = some (.scanReady s.speedSum s.wrSel)
      ∧ ∃ d, exec .snapshot c = .next d
        ∧ lastResponse d.trace = some (0#32, [s.wrSel.setWidth 32])

/-- Between two PUBLISH steps the ENGINE takes at least 1980 byte tokens: from the phase right after one
to the phase right before the next, whatever the schedule, at least so many have left the TRANSPORT. -/
def Obligations.BetweenPublishesLieAFrameOfBytes : Prop :=
  ∀ (n : Nat) (s t : State), s.phase = .adjust → Host.Core.run Sys2Proof.core n s = .next t →
    t.phase = .publish → t.bytesWaiting + 1980 ≤ s.bytesWaiting

/-! ### The motor controller (44_motor_controller.md) -/

/-- R10: the rounded value is the formula's, it is an integer nearest `n / d`, and a tie goes away from
zero. -/
def Obligations.RoundHalfAwayIsNearest : Prop :=
  ∀ (n : Int) (d : Nat), 0 < d →
    roundHalfAway n d = (if 0 ≤ n then 1 else -1) * ((2 * |n| + (d : Int)) / (2 * (d : Int)))
    ∧ 2 * |roundHalfAway n d * d - n| ≤ d
    ∧ (2 * |roundHalfAway n d * d - n| = d → |n| < |roundHalfAway n d| * d)

/-- R190, R191, R193: ADJUST sets the drive to the clamped sum, never wrapping, and writes the duty every
time. -/
def Obligations.AdjustMovesTheDrive : Prop :=
  ∀ s : State, gainInSpec s.params = true → ∃ t, exec .adjust s = .next t
    ∧ (t.drive.toNat : Int) =
        min (max ((s.drive.toNat : Int) + roundHalfAway
          ((90 * (s.target.toNat : Int) - s.speedSum.toNat) * s.pwmRange.toNat * s.params.gainNum)
          (5760 * s.params.gainDen)) 0) ((s.pwmRange.toNat / 2 : Nat) : Int)
    ∧ Effect s t { s.regs with drive := t.drive, phase := .notify }
        [.call (.writeDuty s.params.pwmChannel t.drive) .nothing]

/-- The correction is proportional in sign: a revolution slower than the target never lowers the drive, a
faster one never raises it, and one on target leaves it. -/
def Obligations.DriveMovesTowardTheTarget : Prop :=
  ∀ s t : State, s.drive.toNat ≤ maxPwm s.pwmRange.toNat → exec .adjust s = .next t →
    (s.speedSum.toNat < 90 * s.target.toNat → s.drive.toNat ≤ t.drive.toNat)
    ∧ (90 * s.target.toNat < s.speedSum.toNat → t.drive.toNat ≤ s.drive.toNat)
    ∧ (s.speedSum.toNat = 90 * s.target.toNat → t.drive = s.drive)
    ∧ t.drive.toNat ≤ maxPwm s.pwmRange.toNat

/-! ### The lifecycle (45_lifecycle.md) -/

/-- START while acquisition runs or stops changes nothing and answers `D0 = 1`. -/
def Obligations.StartWhileNotIdleIsANoOp : Prop :=
  ∀ s : State, s.ls ≠ .idle →
    ∃ t, exec .start s = .next t ∧ Effect s t s.regs [.response 0#32 [1#32]]

/-- R199, R264: a START in IDLE with good answers re-reads the PWM range, presets and writes the drive,
clears every `VALID` and the counters, keeps `TARGET`, `CB_EN` and the frame RAM, and runs. -/
def Obligations.StartWithGoodAnswersRuns : Prop :=
  ∀ (s : State) (g : Nat) (rr : Int),
    s.ls = .idle → s.params.rangeMin ≤ g → g ≤ 65535 →
    s.answers = { transportOpen := some true, gpioInit := some true, realRange := some rr
                  range := some (some (g : Int)) } →
    ∃ t, exec .start s = .next t
      ∧ t.regs = { s.regs with
          ls := .running, phase := .top, count := 0#11, stopReq := false, wrSel := 0#1
          speedSum := 0#23, pwmRange := BitVec.ofNat 16 g, drive := BitVec.ofNat 16 (g / 2 / 2)
          scanReady := false, err := .none }
      ∧ (∀ k j, j < 360 → t.scanEntry k j = { s.scanEntry k j with valid := false })
      ∧ (∀ k j, 360 ≤ j → t.scanEntry k j = s.scanEntry k j)
      ∧ frameKept s t
      ∧ t.answers = Answers.free
      ∧ t.turns = s.turns ∧ t.rx = s.rx ∧ t.draws = s.draws ∧ t.boots = s.boots
      ∧ t.trace = s.trace ++
          [.call (.transportOpen s.params.serialPath s.params.line) (.okOrFail true),
           .call .gpioInit (.okOrFail true),
           .call (.setMode s.params.pwmChannel .output) .nothing,
           .call (.setFrequency s.params.pwmChannel s.params.pwmFreqHz) .nothing,
           .call (.getRealRange s.params.pwmChannel) (.number rr)]
          ++ (if s.params.realRangeLo < rr ∧ rr < s.params.realRangeHi then
                [.call (.setRange s.params.pwmChannel rr) .nothing] else [])
          ++ [.call (.getRange s.params.pwmChannel) (.numberOrFail (some (g : Int))),
              .call (.writeDuty s.params.pwmChannel (BitVec.ofNat 16 (g / 2 / 2))) .nothing,
              .response 0#32 [0#32]]

/-- Whatever the collaborators answer, a START in IDLE either runs with a legal PWM range and half the
ceiling as its drive, or is fatal and leaves every register but `ERR` and both RAMs as they were. -/
def Obligations.StartInIdleRunsOrIsFatal : Prop :=
  ∀ s : State, s.ls = .idle → ∃ t, exec .start s = .next t
    ∧ ((t.ls = .running ∧ t.phase = .top ∧ t.err = .none ∧ s.params.rangeMin ≤ t.pwmRange.toNat
          ∧ t.drive.toNat = t.pwmRange.toNat / 2 / 2 ∧ t.target = s.target ∧ t.cbEn = s.cbEn
          ∧ lastResponse t.trace = some (0#32, [0#32]))
      ∨ (t.err ≠ .none ∧ t.regs = { s.regs with err := t.err } ∧ memoryKept s t
          ∧ lastResponse t.trace = some (2#32, [t.err.code.setWidth 32])))

/-- R211: a fatal START releases exactly what it acquired, in reverse order, and never writes a duty. -/
def Obligations.FatalStartReleasesWhatItAcquired : Prop :=
  ∀ s t : State, s.ls = .idle → exec .start s = .next t → t.err ≠ .none →
    ∃ obs, t.trace = s.trace ++ obs ∧ obs.all (fun o => !isDutyWrite o) = true
      ∧ (obs = [.call (.transportOpen s.params.serialPath s.params.line) (.okOrFail false),
                .response 2#32 [2#32]] ∧ t.err = .transportOpen
        ∨ obs = [.call (.transportOpen s.params.serialPath s.params.line) (.okOrFail true),
                 .call .gpioInit (.okOrFail false), .call .transportClose .nothing,
                 .response 2#32 [1#32]] ∧ t.err = .gpioInit
        ∨ t.err = .pwmRange ∧ ∃ (rr : Int) (g : Option Int),
            (∀ n, g = some n → n < s.params.rangeMin ∨ 65535 < n)
            ∧ obs = [.call (.transportOpen s.params.serialPath s.params.line) (.okOrFail true),
                     .call .gpioInit (.okOrFail true),
                     .call (.setMode s.params.pwmChannel .output) .nothing,
                     .call (.setFrequency s.params.pwmChannel s.params.pwmFreqHz) .nothing,
                     .call (.getRealRange s.params.pwmChannel) (.number rr)]
                ++ (if s.params.realRangeLo < rr ∧ rr < s.params.realRangeHi then
                      [.call (.setRange s.params.pwmChannel rr) .nothing] else [])
                ++ [.call (.getRange s.params.pwmChannel) (.numberOrFail g),
                    .call (.setMode s.params.pwmChannel .input) .nothing,
                    .call .gpioTerminate .nothing, .call .transportClose .nothing,
                    .response 2#32 [3#32]])

/-- R215: TOP reads the stop flag: to STOPSEQ, or on to HUNT with a one-byte read requested. -/
def Obligations.TopReadsTheStopFlag : Prop :=
  ∀ s : State, ∃ t, exec .top s = .next t
    ∧ (s.stopReq = true → Effect s t { s.regs with ls := .stopping, phase := .stopseq } [])
    ∧ (s.stopReq = false → Effect s t { s.regs with count := 0#11, phase := .hunt }
        [.call (.transportRead 1) .nothing])

/-- R216: STOPSEQ writes a zero duty, releases everything in order and goes to IDLE; the scan, the range
and the speed stay. -/
def Obligations.StopSequenceReleasesEverything : Prop :=
  ∀ s : State, ∃ t, exec .stopseq s = .next t
    ∧ Effect s t { s.regs with drive := 0#16, stopReq := false, ls := .idle, phase := .idle }
        [.call (.writeDuty s.params.pwmChannel 0#16) .nothing,
         .call (.setMode s.params.pwmChannel .input) .nothing,
         .call .gpioTerminate .nothing, .call .transportClose .nothing]

/-- R217, R221: NOTIFY emits the event and waits for its acknowledgement, or ends the iteration; SCAN_ACK in
WAIT_ACK releases the ENGINE, elsewhere it changes nothing, and it always answers OK. -/
def Obligations.NotifyAndScanAckHandshake : Prop :=
  ∀ s : State,
    (∃ t, exec .notify s = .next t
      ∧ (s.cbEn = true → Effect s t { s.regs with scanReady := true, phase := .waitAck }
          [.scanReady s.speedSum (1#1 - s.wrSel)])
      ∧ (s.cbEn = false → Effect s t { s.regs with phase := .top } []))
    ∧ ∃ t, exec .scanAck s = .next t
      ∧ (s.phase = .waitAck → Effect s t { s.regs with scanReady := false, phase := .top }
          [.response 0#32 []])
      ∧ (s.phase ≠ .waitAck → Effect s t s.regs [.response 0#32 []])

/-- R212, R219, R220: STOP sets the stop flag, and only while RUNNING; SET_TARGET and SET_CB write their
register. Each answers OK at once, in every state, and changes nothing else. -/
def Obligations.CommandsWriteOneRegister : Prop :=
  ∀ s : State,
    (∃ t, exec .stop s = .next t
      ∧ Effect s t { s.regs with stopReq := if s.ls = .running then true else s.stopReq }
          [.response 0#32 []])
    ∧ (∀ v, ∃ t, exec (.setTarget v) s = .next t
      ∧ Effect s t { s.regs with target := v } [.response 0#32 []])
    ∧ (∃ t, exec (.setCb 1#1) s = .next t
      ∧ Effect s t { s.regs with cbEn := true } [.response 0#32 []])
    ∧ ∃ t, exec (.setCb 0#1) s = .next t
      ∧ Effect s t { s.regs with cbEn := false } [.response 0#32 []]

/-- R213: `LS` moves only as the table of lifecycle transitions says, a fatal START in IDLE leaves an error
and a STOP in RUNNING its request. (The power-on reset, which is no step of an agent, apart: log 11.) -/
def Obligations.LifecycleMovesOnlyByTheTable : Prop :=
  ∀ s t : State, s.ls = s.phase.lifecycle → s.turns.head? ≠ some .powerOn → step s = .next t →
    (t.ls = s.ls
      ∧ (s.ls = .idle → s.turns.head? = some (.host 0x10000000#32) → t.err ≠ .none)
      ∧ (s.ls = .running → s.turns.head? = some (.host 0x20000000#32) → t.stopReq = true))
    ∨ (s.ls = .idle ∧ t.ls = .running ∧ t.err = .none ∧ s.turns.head? = some (.host 0x10000000#32))
    ∨ (s.ls = .running ∧ t.ls = .stopping ∧ s.phase = .top ∧ s.stopReq = true)
    ∨ (s.ls = .stopping ∧ t.ls = .idle ∧ s.phase = .stopseq)

/-- R214: while acquisition runs, `PHASE` moves only along the order of an iteration and its exits, whatever
agent steps: a frame goes on to DECODE only if it is accepted and is dropped at VALIDATE only if it is not,
PAYLOAD is left for TOP only by a short read, and NOTIFY waits exactly with `CB_EN = 1`. (The power-on reset
apart: log 11.) -/
def Obligations.PhaseMovesInTheOrder : Prop :=
  ∀ s t : State, s.ls = .running → s.turns.head? ≠ some .powerOn → step s = .next t →
    t.phase ≠ s.phase →
    (s.phase, t.phase) ∈ [(Phase.top, Phase.hunt), (.top, .stopseq), (.hunt, .hdr1), (.hdr1, .payload)
      , (.hdr1, .hunt), (.payload, .validate), (.payload, .top), (.validate, .decode), (.validate, .top)
      , (.decode, .publish), (.publish, .adjust), (.adjust, .notify), (.notify, .waitAck), (.notify, .top)
      , (.waitAck, .top)]
    ∧ (s.phase = .top → (t.phase = .stopseq ↔ s.stopReq = true))
    ∧ (s.phase = .payload → t.phase = .top → ∃ tok more, s.rx = tok :: more ∧ isByteToken tok = false)
    ∧ (s.phase = .validate → (t.phase = .decode ↔ s.frameOk = true))
    ∧ (s.phase = .notify → (t.phase = .waitAck ↔ s.cbEn = true))

/-- Who writes what (the table of 60_exceptions.md section 6): every register, and both RAMs, are written
by the steps the table names and by no other. -/
def Obligations.EachRegisterHasItsWriters : Prop :=
  ∀ (i : Instr) (s t : State), exec i s = .next t →
    t.params = s.params
    ∧ (i.isEngineStep = false → i ≠ .start → i ≠ .scanAck → t.phase = s.phase)
    ∧ (i.isSyncStep = false → i ≠ .validate → i ≠ .top → i ≠ .start → t.count = s.count)
    ∧ (i ≠ .top → i ≠ .stopseq → i ≠ .start → t.ls = s.ls)
    ∧ (i ≠ .stopseq → i ≠ .start → i ≠ .stop → t.stopReq = s.stopReq)
    ∧ (i ≠ .publish → i ≠ .start → t.wrSel = s.wrSel)
    ∧ (i ≠ .decode → i ≠ .start → t.speedSum = s.speedSum ∧ ∀ k, bankKept k s t)
    ∧ (i.isSyncStep = false → frameKept s t)
    ∧ (i ≠ .adjust → i ≠ .stopseq → i ≠ .start → t.drive = s.drive)
    ∧ (i ≠ .start → t.pwmRange = s.pwmRange ∧ t.err = s.err)
    ∧ ((∀ v, i ≠ .setTarget v) → t.target = s.target)
    ∧ ((∀ e, i ≠ .setCb e) → t.cbEn = s.cbEn)
    ∧ (i ≠ .notify → i ≠ .start → i ≠ .scanAck → t.scanReady = s.scanReady)

/-- Two ENGINE turns from TOP with a stop pending end in IDLE, the motor at zero, the last scan, its
speed and the range still there. -/
def Obligations.PendingStopReachesIdle : Prop :=
  ∀ (s : State) (rest : List Turn), s.ls = .running → s.phase = .top → s.stopReq = true →
    s.turns = .engine :: .engine :: rest →
    ∃ t, Host.Core.run Sys2Proof.core 2 s = .next t ∧ t.ls = .idle ∧ t.phase = .idle
      ∧ t.drive = 0#16 ∧ t.stopReq = false ∧ t.turns = rest ∧ t.wrSel = s.wrSel
      ∧ t.speedSum = s.speedSum ∧ t.pwmRange = s.pwmRange ∧ memoryKept s t

/-- Seven ENGINE turns always bring the ENGINE to a phase that waits for input: what the script line RUN
schedules is enough (R100; the number of turns is the model's, log 1). -/
def Obligations.RunReachesAWaitingPhase : Prop :=
  ∀ (s : State) (rest : List Turn), s.ls = s.phase.lifecycle → gainInSpec s.params = true →
    s.turns = List.replicate runTurns .engine ++ rest →
    ∃ t, Host.Core.run Sys2Proof.core runTurns s = .next t ∧ t.turns = rest ∧ t.rx = s.rx
      ∧ t.phase.hasInternalStep = false

/-- A STOP and the ENGINE's work on a frame commute: whichever comes first, the registers, the RAMs and
the world end the same; only the order of the observations differs. -/
def Obligations.StopCommutesWithTheFrame : Prop :=
  ∀ (i : Instr) (s a b : State), i.isEngineStep = true → i ≠ .top → i ≠ .stopseq →
    s.ls = .running → exec .stop s = .next a → exec i a = .next b →
    ∃ c d, exec i s = .next c ∧ exec .stop c = .next d
      ∧ d.regs = b.regs ∧ memoryKept b d ∧ worldKept b d

/-! ### Reset, and what the block can hold -/

/-- The state after power-on reset (R39): every register at its value, at the parameters of R6, and the LUT ROM
at the contents of the table of R151. That both RAMs hold nothing written, an unwritten byte or field being any
value, is how the model holds unspecified contents (log 5), and that the ROM is no field of State is its choice
(log 13). -/
def Obligations.ResetValues : Prop :=
  State.reset.params = Config.params ∧ State.reset.ls = .idle ∧ State.reset.phase = .idle ∧ State.reset.count = 0#11
  ∧ State.reset.stopReq = false ∧ State.reset.wrSel = 0#1 ∧ State.reset.speedSum = 0#23
  ∧ State.reset.target = 16000#16 ∧ State.reset.pwmRange = 0#16 ∧ State.reset.drive = 0#16
  ∧ State.reset.cbEn = false ∧ State.reset.scanReady = false ∧ State.reset.err = .none
  ∧ (∀ i, Memory.read State.reset.frame i = none)
  ∧ (∀ k j, Bank.cell (State.reset.bank k) j = unwrittenCell)
  ∧ (List.range 91).map (qw State.reset.params) =
    [0, 73201, 146379, 219513, 292580, 365558, 438424, 511157, 583734, 656134] ++
    [728333, 800311, 872045, 943513, 1014694, 1085566, 1156107, 1226296, 1296111, 1365532] ++
    [1434536, 1503104, 1571214, 1638845, 1705977, 1772589, 1838662, 1904174, 1969106, 2033439] ++
    [2097152, 2160226, 2222642, 2284382, 2345425, 2405754, 2465350, 2524195, 2582271, 2639561] ++
    [2696047, 2751711, 2806537, 2860508, 2913608, 2965821, 3017130, 3067520, 3116975, 3165481] ++
    [3213023, 3259586, 3305157, 3349720, 3393263, 3435773, 3477236, 3517639, 3556972, 3595220] ++
    [3632374, 3668421, 3703351, 3737152, 3769815, 3801330, 3831687, 3860877, 3888891, 3915720] ++
    [3941357, 3965792, 3989020, 4011033, 4031824, 4051387, 4069715, 4086804, 4102648, 4117243] ++
    [4130583, 4142665, 4153485, 4163040, 4171327, 4178343, 4184087, 4188556, 4191749, 4193665] ++
    [4194304]

/-- A power-on reset at any time (log 11) leaves every register at its reset value, TARGET at
TARGET_RESET, and calls no collaborator; the parameters and what the world still does are kept. -/
def Obligations.PowerOnResetAtAnyTime : Prop :=
  ∀ (s : State) (rest : List Turn), s.turns = .powerOn :: rest →
    ∃ t, step s = .next t ∧ t.regs = { State.reset.regs with params := s.params, target := s.params.targetReset }
      ∧ t.trace = s.trace ∧ t.turns = rest ∧ t.rx = s.rx ∧ t.answers = s.answers
      ∧ (∀ i, Memory.read t.frame i = none) ∧ (∀ k j, Bank.cell (t.bank k) j = unwrittenCell)

/-- The invariant holds at reset. -/
def Obligations.InvariantHoldsAtReset : Prop := State.reset.Inv

/-- Every step keeps the invariant: the pairs of `LS` and `PHASE`, the values of `COUNT`, the canonical
forms of the RAMs, the header in the frame, the accepted frame before DECODE, the drive below its
ceiling, the flags where they belong, and sound points. -/
def Obligations.StepKeepsTheInvariant : Prop :=
  ∀ s t : State, s.Inv → step s = .next t → t.Inv

/-- From a state that meets the invariant, with a gain the spec covers, a step never faults and is never
refused: every error of the block is handled inside its step. -/
def Obligations.InvariantStatesNeverStop : Prop :=
  ∀ s : State, s.Inv → gainInSpec s.params = true → ∃ t, step s = .next t
end

