-- ==== Sys2Proof/Laws/Bits.lean ====
section
/-! SUPPORT. The laws of concatenation (00_scope.md R8): its bits, its fields, its value. -/

namespace Sys2Proof

variable {m n w : Nat} (a : BitVec m) (b : BitVec n)

@[simp] theorem getLsbD_cat (i : Nat) :
    (cat w a b).getLsbD i = (decide (i < w) && if i < n then b.getLsbD i else a.getLsbD (i - n)) := by
  simp only [cat, BitVec.getLsbD_setWidth, BitVec.getLsbD_append]

@[simp] theorem getElem_cat (i : Nat) (h : i < w) :
    (cat w a b)[i] = if i < n then b.getLsbD i else a.getLsbD (i - n) := by
  rw [← BitVec.getLsbD_eq_getElem, getLsbD_cat]
  simp [h]

/-- The low field of a concatenation. -/
@[simp] theorem extractLsb'_cat_low (h : n ≤ w) : (cat w a b).extractLsb' 0 n = b := by
  ext i hi
  simp [hi, show i < w by omega]

/-- The high field of a concatenation. -/
theorem extractLsb'_cat_high (h : m + n = w) : (cat w a b).extractLsb' n m = a := by
  ext i hi
  simp [show n + i < w by omega, hi]

/-- The value of a concatenation. -/
theorem toNat_cat (h : m + n = w) : (cat w a b).toNat = a.toNat * 2 ^ n + b.toNat := by
  have ha := a.isLt
  have hb := b.isLt
  have hlt : a.toNat * 2 ^ n + b.toNat < 2 ^ w := by
    rw [← h, pow_add]
    nlinarith
  rw [cat, BitVec.toNat_setWidth, BitVec.toNat_append, Nat.shiftLeft_eq, ← Nat.shiftLeft_eq,
    ← Nat.shiftLeft_add_eq_or_of_lt hb, Nat.shiftLeft_eq, Nat.mod_eq_of_lt hlt]

end Sys2Proof
end

