-- ==== Sys2Proof/Laws/State.lean ====
section
/-! SUPPORT. One lemma per field per named update of the state: no later proof unfolds a record update. -/

namespace Sys2Proof.Machine

/-! ### The status words of R94 -/

@[simp] theorem RespStatus.code_ok : RespStatus.ok.code = 0#32 := rfl
@[simp] theorem RespStatus.code_badCmd : RespStatus.badCmd.code = 1#32 := rfl
@[simp] theorem RespStatus.code_fatal : RespStatus.fatal.code = 2#32 := rfl

/-! ### `setLs` -/

@[simp] theorem State.setLs_params (s : State) (v : Lifecycle) : (s.setLs v).params = s.params := rfl
@[simp] theorem State.setLs_ls (s : State) (v : Lifecycle) : (s.setLs v).ls = v := rfl
@[simp] theorem State.setLs_phase (s : State) (v : Lifecycle) : (s.setLs v).phase = s.phase := rfl
@[simp] theorem State.setLs_count (s : State) (v : Lifecycle) : (s.setLs v).count = s.count := rfl
@[simp] theorem State.setLs_stopReq (s : State) (v : Lifecycle) : (s.setLs v).stopReq = s.stopReq := rfl
@[simp] theorem State.setLs_wrSel (s : State) (v : Lifecycle) : (s.setLs v).wrSel = s.wrSel := rfl
@[simp] theorem State.setLs_speedSum (s : State) (v : Lifecycle) : (s.setLs v).speedSum = s.speedSum := rfl
@[simp] theorem State.setLs_target (s : State) (v : Lifecycle) : (s.setLs v).target = s.target := rfl
@[simp] theorem State.setLs_pwmRange (s : State) (v : Lifecycle) : (s.setLs v).pwmRange = s.pwmRange := rfl
@[simp] theorem State.setLs_drive (s : State) (v : Lifecycle) : (s.setLs v).drive = s.drive := rfl
@[simp] theorem State.setLs_cbEn (s : State) (v : Lifecycle) : (s.setLs v).cbEn = s.cbEn := rfl
@[simp] theorem State.setLs_scanReady (s : State) (v : Lifecycle) : (s.setLs v).scanReady = s.scanReady := rfl
@[simp] theorem State.setLs_err (s : State) (v : Lifecycle) : (s.setLs v).err = s.err := rfl
@[simp] theorem State.setLs_frame (s : State) (v : Lifecycle) : (s.setLs v).frame = s.frame := rfl
@[simp] theorem State.setLs_bank0 (s : State) (v : Lifecycle) : (s.setLs v).bank0 = s.bank0 := rfl
@[simp] theorem State.setLs_bank1 (s : State) (v : Lifecycle) : (s.setLs v).bank1 = s.bank1 := rfl
@[simp] theorem State.setLs_boots (s : State) (v : Lifecycle) : (s.setLs v).boots = s.boots := rfl
@[simp] theorem State.setLs_draws (s : State) (v : Lifecycle) : (s.setLs v).draws = s.draws := rfl
@[simp] theorem State.setLs_trace (s : State) (v : Lifecycle) : (s.setLs v).trace = s.trace := rfl
@[simp] theorem State.setLs_turns (s : State) (v : Lifecycle) : (s.setLs v).turns = s.turns := rfl
@[simp] theorem State.setLs_rx (s : State) (v : Lifecycle) : (s.setLs v).rx = s.rx := rfl
@[simp] theorem State.setLs_answers (s : State) (v : Lifecycle) : (s.setLs v).answers = s.answers := rfl

/-! ### `setPhase` -/

@[simp] theorem State.setPhase_params (s : State) (v : Phase) : (s.setPhase v).params = s.params := rfl
@[simp] theorem State.setPhase_ls (s : State) (v : Phase) : (s.setPhase v).ls = s.ls := rfl
@[simp] theorem State.setPhase_phase (s : State) (v : Phase) : (s.setPhase v).phase = v := rfl
@[simp] theorem State.setPhase_count (s : State) (v : Phase) : (s.setPhase v).count = s.count := rfl
@[simp] theorem State.setPhase_stopReq (s : State) (v : Phase) : (s.setPhase v).stopReq = s.stopReq := rfl
@[simp] theorem State.setPhase_wrSel (s : State) (v : Phase) : (s.setPhase v).wrSel = s.wrSel := rfl
@[simp] theorem State.setPhase_speedSum (s : State) (v : Phase) : (s.setPhase v).speedSum = s.speedSum := rfl
@[simp] theorem State.setPhase_target (s : State) (v : Phase) : (s.setPhase v).target = s.target := rfl
@[simp] theorem State.setPhase_pwmRange (s : State) (v : Phase) : (s.setPhase v).pwmRange = s.pwmRange := rfl
@[simp] theorem State.setPhase_drive (s : State) (v : Phase) : (s.setPhase v).drive = s.drive := rfl
@[simp] theorem State.setPhase_cbEn (s : State) (v : Phase) : (s.setPhase v).cbEn = s.cbEn := rfl
@[simp] theorem State.setPhase_scanReady (s : State) (v : Phase) : (s.setPhase v).scanReady = s.scanReady := rfl
@[simp] theorem State.setPhase_err (s : State) (v : Phase) : (s.setPhase v).err = s.err := rfl
@[simp] theorem State.setPhase_frame (s : State) (v : Phase) : (s.setPhase v).frame = s.frame := rfl
@[simp] theorem State.setPhase_bank0 (s : State) (v : Phase) : (s.setPhase v).bank0 = s.bank0 := rfl
@[simp] theorem State.setPhase_bank1 (s : State) (v : Phase) : (s.setPhase v).bank1 = s.bank1 := rfl
@[simp] theorem State.setPhase_boots (s : State) (v : Phase) : (s.setPhase v).boots = s.boots := rfl
@[simp] theorem State.setPhase_draws (s : State) (v : Phase) : (s.setPhase v).draws = s.draws := rfl
@[simp] theorem State.setPhase_trace (s : State) (v : Phase) : (s.setPhase v).trace = s.trace := rfl
@[simp] theorem State.setPhase_turns (s : State) (v : Phase) : (s.setPhase v).turns = s.turns := rfl
@[simp] theorem State.setPhase_rx (s : State) (v : Phase) : (s.setPhase v).rx = s.rx := rfl
@[simp] theorem State.setPhase_answers (s : State) (v : Phase) : (s.setPhase v).answers = s.answers := rfl

/-! ### `setCount` -/

@[simp] theorem State.setCount_params (s : State) (v : BitVec 11) : (s.setCount v).params = s.params := rfl
@[simp] theorem State.setCount_ls (s : State) (v : BitVec 11) : (s.setCount v).ls = s.ls := rfl
@[simp] theorem State.setCount_phase (s : State) (v : BitVec 11) : (s.setCount v).phase = s.phase := rfl
@[simp] theorem State.setCount_count (s : State) (v : BitVec 11) : (s.setCount v).count = v := rfl
@[simp] theorem State.setCount_stopReq (s : State) (v : BitVec 11) : (s.setCount v).stopReq = s.stopReq := rfl
@[simp] theorem State.setCount_wrSel (s : State) (v : BitVec 11) : (s.setCount v).wrSel = s.wrSel := rfl
@[simp] theorem State.setCount_speedSum (s : State) (v : BitVec 11) : (s.setCount v).speedSum = s.speedSum := rfl
@[simp] theorem State.setCount_target (s : State) (v : BitVec 11) : (s.setCount v).target = s.target := rfl
@[simp] theorem State.setCount_pwmRange (s : State) (v : BitVec 11) : (s.setCount v).pwmRange = s.pwmRange := rfl
@[simp] theorem State.setCount_drive (s : State) (v : BitVec 11) : (s.setCount v).drive = s.drive := rfl
@[simp] theorem State.setCount_cbEn (s : State) (v : BitVec 11) : (s.setCount v).cbEn = s.cbEn := rfl
@[simp] theorem State.setCount_scanReady (s : State) (v : BitVec 11) : (s.setCount v).scanReady = s.scanReady := rfl
@[simp] theorem State.setCount_err (s : State) (v : BitVec 11) : (s.setCount v).err = s.err := rfl
@[simp] theorem State.setCount_frame (s : State) (v : BitVec 11) : (s.setCount v).frame = s.frame := rfl
@[simp] theorem State.setCount_bank0 (s : State) (v : BitVec 11) : (s.setCount v).bank0 = s.bank0 := rfl
@[simp] theorem State.setCount_bank1 (s : State) (v : BitVec 11) : (s.setCount v).bank1 = s.bank1 := rfl
@[simp] theorem State.setCount_boots (s : State) (v : BitVec 11) : (s.setCount v).boots = s.boots := rfl
@[simp] theorem State.setCount_draws (s : State) (v : BitVec 11) : (s.setCount v).draws = s.draws := rfl
@[simp] theorem State.setCount_trace (s : State) (v : BitVec 11) : (s.setCount v).trace = s.trace := rfl
@[simp] theorem State.setCount_turns (s : State) (v : BitVec 11) : (s.setCount v).turns = s.turns := rfl
@[simp] theorem State.setCount_rx (s : State) (v : BitVec 11) : (s.setCount v).rx = s.rx := rfl
@[simp] theorem State.setCount_answers (s : State) (v : BitVec 11) : (s.setCount v).answers = s.answers := rfl

/-! ### `setStopReq` -/

@[simp] theorem State.setStopReq_params (s : State) (v : Bool) : (s.setStopReq v).params = s.params := rfl
@[simp] theorem State.setStopReq_ls (s : State) (v : Bool) : (s.setStopReq v).ls = s.ls := rfl
@[simp] theorem State.setStopReq_phase (s : State) (v : Bool) : (s.setStopReq v).phase = s.phase := rfl
@[simp] theorem State.setStopReq_count (s : State) (v : Bool) : (s.setStopReq v).count = s.count := rfl
@[simp] theorem State.setStopReq_stopReq (s : State) (v : Bool) : (s.setStopReq v).stopReq = v := rfl
@[simp] theorem State.setStopReq_wrSel (s : State) (v : Bool) : (s.setStopReq v).wrSel = s.wrSel := rfl
@[simp] theorem State.setStopReq_speedSum (s : State) (v : Bool) : (s.setStopReq v).speedSum = s.speedSum := rfl
@[simp] theorem State.setStopReq_target (s : State) (v : Bool) : (s.setStopReq v).target = s.target := rfl
@[simp] theorem State.setStopReq_pwmRange (s : State) (v : Bool) : (s.setStopReq v).pwmRange = s.pwmRange := rfl
@[simp] theorem State.setStopReq_drive (s : State) (v : Bool) : (s.setStopReq v).drive = s.drive := rfl
@[simp] theorem State.setStopReq_cbEn (s : State) (v : Bool) : (s.setStopReq v).cbEn = s.cbEn := rfl
@[simp] theorem State.setStopReq_scanReady (s : State) (v : Bool) : (s.setStopReq v).scanReady = s.scanReady := rfl
@[simp] theorem State.setStopReq_err (s : State) (v : Bool) : (s.setStopReq v).err = s.err := rfl
@[simp] theorem State.setStopReq_frame (s : State) (v : Bool) : (s.setStopReq v).frame = s.frame := rfl
@[simp] theorem State.setStopReq_bank0 (s : State) (v : Bool) : (s.setStopReq v).bank0 = s.bank0 := rfl
@[simp] theorem State.setStopReq_bank1 (s : State) (v : Bool) : (s.setStopReq v).bank1 = s.bank1 := rfl
@[simp] theorem State.setStopReq_boots (s : State) (v : Bool) : (s.setStopReq v).boots = s.boots := rfl
@[simp] theorem State.setStopReq_draws (s : State) (v : Bool) : (s.setStopReq v).draws = s.draws := rfl
@[simp] theorem State.setStopReq_trace (s : State) (v : Bool) : (s.setStopReq v).trace = s.trace := rfl
@[simp] theorem State.setStopReq_turns (s : State) (v : Bool) : (s.setStopReq v).turns = s.turns := rfl
@[simp] theorem State.setStopReq_rx (s : State) (v : Bool) : (s.setStopReq v).rx = s.rx := rfl
@[simp] theorem State.setStopReq_answers (s : State) (v : Bool) : (s.setStopReq v).answers = s.answers := rfl

/-! ### `setWrSel` -/

@[simp] theorem State.setWrSel_params (s : State) (v : BankNo) : (s.setWrSel v).params = s.params := rfl
@[simp] theorem State.setWrSel_ls (s : State) (v : BankNo) : (s.setWrSel v).ls = s.ls := rfl
@[simp] theorem State.setWrSel_phase (s : State) (v : BankNo) : (s.setWrSel v).phase = s.phase := rfl
@[simp] theorem State.setWrSel_count (s : State) (v : BankNo) : (s.setWrSel v).count = s.count := rfl
@[simp] theorem State.setWrSel_stopReq (s : State) (v : BankNo) : (s.setWrSel v).stopReq = s.stopReq := rfl
@[simp] theorem State.setWrSel_wrSel (s : State) (v : BankNo) : (s.setWrSel v).wrSel = v := rfl
@[simp] theorem State.setWrSel_speedSum (s : State) (v : BankNo) : (s.setWrSel v).speedSum = s.speedSum := rfl
@[simp] theorem State.setWrSel_target (s : State) (v : BankNo) : (s.setWrSel v).target = s.target := rfl
@[simp] theorem State.setWrSel_pwmRange (s : State) (v : BankNo) : (s.setWrSel v).pwmRange = s.pwmRange := rfl
@[simp] theorem State.setWrSel_drive (s : State) (v : BankNo) : (s.setWrSel v).drive = s.drive := rfl
@[simp] theorem State.setWrSel_cbEn (s : State) (v : BankNo) : (s.setWrSel v).cbEn = s.cbEn := rfl
@[simp] theorem State.setWrSel_scanReady (s : State) (v : BankNo) : (s.setWrSel v).scanReady = s.scanReady := rfl
@[simp] theorem State.setWrSel_err (s : State) (v : BankNo) : (s.setWrSel v).err = s.err := rfl
@[simp] theorem State.setWrSel_frame (s : State) (v : BankNo) : (s.setWrSel v).frame = s.frame := rfl
@[simp] theorem State.setWrSel_bank0 (s : State) (v : BankNo) : (s.setWrSel v).bank0 = s.bank0 := rfl
@[simp] theorem State.setWrSel_bank1 (s : State) (v : BankNo) : (s.setWrSel v).bank1 = s.bank1 := rfl
@[simp] theorem State.setWrSel_boots (s : State) (v : BankNo) : (s.setWrSel v).boots = s.boots := rfl
@[simp] theorem State.setWrSel_draws (s : State) (v : BankNo) : (s.setWrSel v).draws = s.draws := rfl
@[simp] theorem State.setWrSel_trace (s : State) (v : BankNo) : (s.setWrSel v).trace = s.trace := rfl
@[simp] theorem State.setWrSel_turns (s : State) (v : BankNo) : (s.setWrSel v).turns = s.turns := rfl
@[simp] theorem State.setWrSel_rx (s : State) (v : BankNo) : (s.setWrSel v).rx = s.rx := rfl
@[simp] theorem State.setWrSel_answers (s : State) (v : BankNo) : (s.setWrSel v).answers = s.answers := rfl

/-! ### `setSpeedSum` -/

@[simp] theorem State.setSpeedSum_params (s : State) (v : BitVec 23) : (s.setSpeedSum v).params = s.params := rfl
@[simp] theorem State.setSpeedSum_ls (s : State) (v : BitVec 23) : (s.setSpeedSum v).ls = s.ls := rfl
@[simp] theorem State.setSpeedSum_phase (s : State) (v : BitVec 23) : (s.setSpeedSum v).phase = s.phase := rfl
@[simp] theorem State.setSpeedSum_count (s : State) (v : BitVec 23) : (s.setSpeedSum v).count = s.count := rfl
@[simp] theorem State.setSpeedSum_stopReq (s : State) (v : BitVec 23) : (s.setSpeedSum v).stopReq = s.stopReq := rfl
@[simp] theorem State.setSpeedSum_wrSel (s : State) (v : BitVec 23) : (s.setSpeedSum v).wrSel = s.wrSel := rfl
@[simp] theorem State.setSpeedSum_speedSum (s : State) (v : BitVec 23) : (s.setSpeedSum v).speedSum = v := rfl
@[simp] theorem State.setSpeedSum_target (s : State) (v : BitVec 23) : (s.setSpeedSum v).target = s.target := rfl
@[simp] theorem State.setSpeedSum_pwmRange (s : State) (v : BitVec 23) : (s.setSpeedSum v).pwmRange = s.pwmRange := rfl
@[simp] theorem State.setSpeedSum_drive (s : State) (v : BitVec 23) : (s.setSpeedSum v).drive = s.drive := rfl
@[simp] theorem State.setSpeedSum_cbEn (s : State) (v : BitVec 23) : (s.setSpeedSum v).cbEn = s.cbEn := rfl
@[simp] theorem State.setSpeedSum_scanReady (s : State) (v : BitVec 23) : (s.setSpeedSum v).scanReady = s.scanReady := rfl
@[simp] theorem State.setSpeedSum_err (s : State) (v : BitVec 23) : (s.setSpeedSum v).err = s.err := rfl
@[simp] theorem State.setSpeedSum_frame (s : State) (v : BitVec 23) : (s.setSpeedSum v).frame = s.frame := rfl
@[simp] theorem State.setSpeedSum_bank0 (s : State) (v : BitVec 23) : (s.setSpeedSum v).bank0 = s.bank0 := rfl
@[simp] theorem State.setSpeedSum_bank1 (s : State) (v : BitVec 23) : (s.setSpeedSum v).bank1 = s.bank1 := rfl
@[simp] theorem State.setSpeedSum_boots (s : State) (v : BitVec 23) : (s.setSpeedSum v).boots = s.boots := rfl
@[simp] theorem State.setSpeedSum_draws (s : State) (v : BitVec 23) : (s.setSpeedSum v).draws = s.draws := rfl
@[simp] theorem State.setSpeedSum_trace (s : State) (v : BitVec 23) : (s.setSpeedSum v).trace = s.trace := rfl
@[simp] theorem State.setSpeedSum_turns (s : State) (v : BitVec 23) : (s.setSpeedSum v).turns = s.turns := rfl
@[simp] theorem State.setSpeedSum_rx (s : State) (v : BitVec 23) : (s.setSpeedSum v).rx = s.rx := rfl
@[simp] theorem State.setSpeedSum_answers (s : State) (v : BitVec 23) : (s.setSpeedSum v).answers = s.answers := rfl

/-! ### `setTarget` -/

@[simp] theorem State.setTarget_params (s : State) (v : Half) : (s.setTarget v).params = s.params := rfl
@[simp] theorem State.setTarget_ls (s : State) (v : Half) : (s.setTarget v).ls = s.ls := rfl
@[simp] theorem State.setTarget_phase (s : State) (v : Half) : (s.setTarget v).phase = s.phase := rfl
@[simp] theorem State.setTarget_count (s : State) (v : Half) : (s.setTarget v).count = s.count := rfl
@[simp] theorem State.setTarget_stopReq (s : State) (v : Half) : (s.setTarget v).stopReq = s.stopReq := rfl
@[simp] theorem State.setTarget_wrSel (s : State) (v : Half) : (s.setTarget v).wrSel = s.wrSel := rfl
@[simp] theorem State.setTarget_speedSum (s : State) (v : Half) : (s.setTarget v).speedSum = s.speedSum := rfl
@[simp] theorem State.setTarget_target (s : State) (v : Half) : (s.setTarget v).target = v := rfl
@[simp] theorem State.setTarget_pwmRange (s : State) (v : Half) : (s.setTarget v).pwmRange = s.pwmRange := rfl
@[simp] theorem State.setTarget_drive (s : State) (v : Half) : (s.setTarget v).drive = s.drive := rfl
@[simp] theorem State.setTarget_cbEn (s : State) (v : Half) : (s.setTarget v).cbEn = s.cbEn := rfl
@[simp] theorem State.setTarget_scanReady (s : State) (v : Half) : (s.setTarget v).scanReady = s.scanReady := rfl
@[simp] theorem State.setTarget_err (s : State) (v : Half) : (s.setTarget v).err = s.err := rfl
@[simp] theorem State.setTarget_frame (s : State) (v : Half) : (s.setTarget v).frame = s.frame := rfl
@[simp] theorem State.setTarget_bank0 (s : State) (v : Half) : (s.setTarget v).bank0 = s.bank0 := rfl
@[simp] theorem State.setTarget_bank1 (s : State) (v : Half) : (s.setTarget v).bank1 = s.bank1 := rfl
@[simp] theorem State.setTarget_boots (s : State) (v : Half) : (s.setTarget v).boots = s.boots := rfl
@[simp] theorem State.setTarget_draws (s : State) (v : Half) : (s.setTarget v).draws = s.draws := rfl
@[simp] theorem State.setTarget_trace (s : State) (v : Half) : (s.setTarget v).trace = s.trace := rfl
@[simp] theorem State.setTarget_turns (s : State) (v : Half) : (s.setTarget v).turns = s.turns := rfl
@[simp] theorem State.setTarget_rx (s : State) (v : Half) : (s.setTarget v).rx = s.rx := rfl
@[simp] theorem State.setTarget_answers (s : State) (v : Half) : (s.setTarget v).answers = s.answers := rfl

/-! ### `setPwmRange` -/

@[simp] theorem State.setPwmRange_params (s : State) (v : Half) : (s.setPwmRange v).params = s.params := rfl
@[simp] theorem State.setPwmRange_ls (s : State) (v : Half) : (s.setPwmRange v).ls = s.ls := rfl
@[simp] theorem State.setPwmRange_phase (s : State) (v : Half) : (s.setPwmRange v).phase = s.phase := rfl
@[simp] theorem State.setPwmRange_count (s : State) (v : Half) : (s.setPwmRange v).count = s.count := rfl
@[simp] theorem State.setPwmRange_stopReq (s : State) (v : Half) : (s.setPwmRange v).stopReq = s.stopReq := rfl
@[simp] theorem State.setPwmRange_wrSel (s : State) (v : Half) : (s.setPwmRange v).wrSel = s.wrSel := rfl
@[simp] theorem State.setPwmRange_speedSum (s : State) (v : Half) : (s.setPwmRange v).speedSum = s.speedSum := rfl
@[simp] theorem State.setPwmRange_target (s : State) (v : Half) : (s.setPwmRange v).target = s.target := rfl
@[simp] theorem State.setPwmRange_pwmRange (s : State) (v : Half) : (s.setPwmRange v).pwmRange = v := rfl
@[simp] theorem State.setPwmRange_drive (s : State) (v : Half) : (s.setPwmRange v).drive = s.drive := rfl
@[simp] theorem State.setPwmRange_cbEn (s : State) (v : Half) : (s.setPwmRange v).cbEn = s.cbEn := rfl
@[simp] theorem State.setPwmRange_scanReady (s : State) (v : Half) : (s.setPwmRange v).scanReady = s.scanReady := rfl
@[simp] theorem State.setPwmRange_err (s : State) (v : Half) : (s.setPwmRange v).err = s.err := rfl
@[simp] theorem State.setPwmRange_frame (s : State) (v : Half) : (s.setPwmRange v).frame = s.frame := rfl
@[simp] theorem State.setPwmRange_bank0 (s : State) (v : Half) : (s.setPwmRange v).bank0 = s.bank0 := rfl
@[simp] theorem State.setPwmRange_bank1 (s : State) (v : Half) : (s.setPwmRange v).bank1 = s.bank1 := rfl
@[simp] theorem State.setPwmRange_boots (s : State) (v : Half) : (s.setPwmRange v).boots = s.boots := rfl
@[simp] theorem State.setPwmRange_draws (s : State) (v : Half) : (s.setPwmRange v).draws = s.draws := rfl
@[simp] theorem State.setPwmRange_trace (s : State) (v : Half) : (s.setPwmRange v).trace = s.trace := rfl
@[simp] theorem State.setPwmRange_turns (s : State) (v : Half) : (s.setPwmRange v).turns = s.turns := rfl
@[simp] theorem State.setPwmRange_rx (s : State) (v : Half) : (s.setPwmRange v).rx = s.rx := rfl
@[simp] theorem State.setPwmRange_answers (s : State) (v : Half) : (s.setPwmRange v).answers = s.answers := rfl

/-! ### `setDrive` -/

@[simp] theorem State.setDrive_params (s : State) (v : Half) : (s.setDrive v).params = s.params := rfl
@[simp] theorem State.setDrive_ls (s : State) (v : Half) : (s.setDrive v).ls = s.ls := rfl
@[simp] theorem State.setDrive_phase (s : State) (v : Half) : (s.setDrive v).phase = s.phase := rfl
@[simp] theorem State.setDrive_count (s : State) (v : Half) : (s.setDrive v).count = s.count := rfl
@[simp] theorem State.setDrive_stopReq (s : State) (v : Half) : (s.setDrive v).stopReq = s.stopReq := rfl
@[simp] theorem State.setDrive_wrSel (s : State) (v : Half) : (s.setDrive v).wrSel = s.wrSel := rfl
@[simp] theorem State.setDrive_speedSum (s : State) (v : Half) : (s.setDrive v).speedSum = s.speedSum := rfl
@[simp] theorem State.setDrive_target (s : State) (v : Half) : (s.setDrive v).target = s.target := rfl
@[simp] theorem State.setDrive_pwmRange (s : State) (v : Half) : (s.setDrive v).pwmRange = s.pwmRange := rfl
@[simp] theorem State.setDrive_drive (s : State) (v : Half) : (s.setDrive v).drive = v := rfl
@[simp] theorem State.setDrive_cbEn (s : State) (v : Half) : (s.setDrive v).cbEn = s.cbEn := rfl
@[simp] theorem State.setDrive_scanReady (s : State) (v : Half) : (s.setDrive v).scanReady = s.scanReady := rfl
@[simp] theorem State.setDrive_err (s : State) (v : Half) : (s.setDrive v).err = s.err := rfl
@[simp] theorem State.setDrive_frame (s : State) (v : Half) : (s.setDrive v).frame = s.frame := rfl
@[simp] theorem State.setDrive_bank0 (s : State) (v : Half) : (s.setDrive v).bank0 = s.bank0 := rfl
@[simp] theorem State.setDrive_bank1 (s : State) (v : Half) : (s.setDrive v).bank1 = s.bank1 := rfl
@[simp] theorem State.setDrive_boots (s : State) (v : Half) : (s.setDrive v).boots = s.boots := rfl
@[simp] theorem State.setDrive_draws (s : State) (v : Half) : (s.setDrive v).draws = s.draws := rfl
@[simp] theorem State.setDrive_trace (s : State) (v : Half) : (s.setDrive v).trace = s.trace := rfl
@[simp] theorem State.setDrive_turns (s : State) (v : Half) : (s.setDrive v).turns = s.turns := rfl
@[simp] theorem State.setDrive_rx (s : State) (v : Half) : (s.setDrive v).rx = s.rx := rfl
@[simp] theorem State.setDrive_answers (s : State) (v : Half) : (s.setDrive v).answers = s.answers := rfl

/-! ### `setCbEn` -/

@[simp] theorem State.setCbEn_params (s : State) (v : Bool) : (s.setCbEn v).params = s.params := rfl
@[simp] theorem State.setCbEn_ls (s : State) (v : Bool) : (s.setCbEn v).ls = s.ls := rfl
@[simp] theorem State.setCbEn_phase (s : State) (v : Bool) : (s.setCbEn v).phase = s.phase := rfl
@[simp] theorem State.setCbEn_count (s : State) (v : Bool) : (s.setCbEn v).count = s.count := rfl
@[simp] theorem State.setCbEn_stopReq (s : State) (v : Bool) : (s.setCbEn v).stopReq = s.stopReq := rfl
@[simp] theorem State.setCbEn_wrSel (s : State) (v : Bool) : (s.setCbEn v).wrSel = s.wrSel := rfl
@[simp] theorem State.setCbEn_speedSum (s : State) (v : Bool) : (s.setCbEn v).speedSum = s.speedSum := rfl
@[simp] theorem State.setCbEn_target (s : State) (v : Bool) : (s.setCbEn v).target = s.target := rfl
@[simp] theorem State.setCbEn_pwmRange (s : State) (v : Bool) : (s.setCbEn v).pwmRange = s.pwmRange := rfl
@[simp] theorem State.setCbEn_drive (s : State) (v : Bool) : (s.setCbEn v).drive = s.drive := rfl
@[simp] theorem State.setCbEn_cbEn (s : State) (v : Bool) : (s.setCbEn v).cbEn = v := rfl
@[simp] theorem State.setCbEn_scanReady (s : State) (v : Bool) : (s.setCbEn v).scanReady = s.scanReady := rfl
@[simp] theorem State.setCbEn_err (s : State) (v : Bool) : (s.setCbEn v).err = s.err := rfl
@[simp] theorem State.setCbEn_frame (s : State) (v : Bool) : (s.setCbEn v).frame = s.frame := rfl
@[simp] theorem State.setCbEn_bank0 (s : State) (v : Bool) : (s.setCbEn v).bank0 = s.bank0 := rfl
@[simp] theorem State.setCbEn_bank1 (s : State) (v : Bool) : (s.setCbEn v).bank1 = s.bank1 := rfl
@[simp] theorem State.setCbEn_boots (s : State) (v : Bool) : (s.setCbEn v).boots = s.boots := rfl
@[simp] theorem State.setCbEn_draws (s : State) (v : Bool) : (s.setCbEn v).draws = s.draws := rfl
@[simp] theorem State.setCbEn_trace (s : State) (v : Bool) : (s.setCbEn v).trace = s.trace := rfl
@[simp] theorem State.setCbEn_turns (s : State) (v : Bool) : (s.setCbEn v).turns = s.turns := rfl
@[simp] theorem State.setCbEn_rx (s : State) (v : Bool) : (s.setCbEn v).rx = s.rx := rfl
@[simp] theorem State.setCbEn_answers (s : State) (v : Bool) : (s.setCbEn v).answers = s.answers := rfl

/-! ### `setScanReady` -/

@[simp] theorem State.setScanReady_params (s : State) (v : Bool) : (s.setScanReady v).params = s.params := rfl
@[simp] theorem State.setScanReady_ls (s : State) (v : Bool) : (s.setScanReady v).ls = s.ls := rfl
@[simp] theorem State.setScanReady_phase (s : State) (v : Bool) : (s.setScanReady v).phase = s.phase := rfl
@[simp] theorem State.setScanReady_count (s : State) (v : Bool) : (s.setScanReady v).count = s.count := rfl
@[simp] theorem State.setScanReady_stopReq (s : State) (v : Bool) : (s.setScanReady v).stopReq = s.stopReq := rfl
@[simp] theorem State.setScanReady_wrSel (s : State) (v : Bool) : (s.setScanReady v).wrSel = s.wrSel := rfl
@[simp] theorem State.setScanReady_speedSum (s : State) (v : Bool) : (s.setScanReady v).speedSum = s.speedSum := rfl
@[simp] theorem State.setScanReady_target (s : State) (v : Bool) : (s.setScanReady v).target = s.target := rfl
@[simp] theorem State.setScanReady_pwmRange (s : State) (v : Bool) : (s.setScanReady v).pwmRange = s.pwmRange := rfl
@[simp] theorem State.setScanReady_drive (s : State) (v : Bool) : (s.setScanReady v).drive = s.drive := rfl
@[simp] theorem State.setScanReady_cbEn (s : State) (v : Bool) : (s.setScanReady v).cbEn = s.cbEn := rfl
@[simp] theorem State.setScanReady_scanReady (s : State) (v : Bool) : (s.setScanReady v).scanReady = v := rfl
@[simp] theorem State.setScanReady_err (s : State) (v : Bool) : (s.setScanReady v).err = s.err := rfl
@[simp] theorem State.setScanReady_frame (s : State) (v : Bool) : (s.setScanReady v).frame = s.frame := rfl
@[simp] theorem State.setScanReady_bank0 (s : State) (v : Bool) : (s.setScanReady v).bank0 = s.bank0 := rfl
@[simp] theorem State.setScanReady_bank1 (s : State) (v : Bool) : (s.setScanReady v).bank1 = s.bank1 := rfl
@[simp] theorem State.setScanReady_boots (s : State) (v : Bool) : (s.setScanReady v).boots = s.boots := rfl
@[simp] theorem State.setScanReady_draws (s : State) (v : Bool) : (s.setScanReady v).draws = s.draws := rfl
@[simp] theorem State.setScanReady_trace (s : State) (v : Bool) : (s.setScanReady v).trace = s.trace := rfl
@[simp] theorem State.setScanReady_turns (s : State) (v : Bool) : (s.setScanReady v).turns = s.turns := rfl
@[simp] theorem State.setScanReady_rx (s : State) (v : Bool) : (s.setScanReady v).rx = s.rx := rfl
@[simp] theorem State.setScanReady_answers (s : State) (v : Bool) : (s.setScanReady v).answers = s.answers := rfl

/-! ### `setErr` -/

@[simp] theorem State.setErr_params (s : State) (v : ErrCode) : (s.setErr v).params = s.params := rfl
@[simp] theorem State.setErr_ls (s : State) (v : ErrCode) : (s.setErr v).ls = s.ls := rfl
@[simp] theorem State.setErr_phase (s : State) (v : ErrCode) : (s.setErr v).phase = s.phase := rfl
@[simp] theorem State.setErr_count (s : State) (v : ErrCode) : (s.setErr v).count = s.count := rfl
@[simp] theorem State.setErr_stopReq (s : State) (v : ErrCode) : (s.setErr v).stopReq = s.stopReq := rfl
@[simp] theorem State.setErr_wrSel (s : State) (v : ErrCode) : (s.setErr v).wrSel = s.wrSel := rfl
@[simp] theorem State.setErr_speedSum (s : State) (v : ErrCode) : (s.setErr v).speedSum = s.speedSum := rfl
@[simp] theorem State.setErr_target (s : State) (v : ErrCode) : (s.setErr v).target = s.target := rfl
@[simp] theorem State.setErr_pwmRange (s : State) (v : ErrCode) : (s.setErr v).pwmRange = s.pwmRange := rfl
@[simp] theorem State.setErr_drive (s : State) (v : ErrCode) : (s.setErr v).drive = s.drive := rfl
@[simp] theorem State.setErr_cbEn (s : State) (v : ErrCode) : (s.setErr v).cbEn = s.cbEn := rfl
@[simp] theorem State.setErr_scanReady (s : State) (v : ErrCode) : (s.setErr v).scanReady = s.scanReady := rfl
@[simp] theorem State.setErr_err (s : State) (v : ErrCode) : (s.setErr v).err = v := rfl
@[simp] theorem State.setErr_frame (s : State) (v : ErrCode) : (s.setErr v).frame = s.frame := rfl
@[simp] theorem State.setErr_bank0 (s : State) (v : ErrCode) : (s.setErr v).bank0 = s.bank0 := rfl
@[simp] theorem State.setErr_bank1 (s : State) (v : ErrCode) : (s.setErr v).bank1 = s.bank1 := rfl
@[simp] theorem State.setErr_boots (s : State) (v : ErrCode) : (s.setErr v).boots = s.boots := rfl
@[simp] theorem State.setErr_draws (s : State) (v : ErrCode) : (s.setErr v).draws = s.draws := rfl
@[simp] theorem State.setErr_trace (s : State) (v : ErrCode) : (s.setErr v).trace = s.trace := rfl
@[simp] theorem State.setErr_turns (s : State) (v : ErrCode) : (s.setErr v).turns = s.turns := rfl
@[simp] theorem State.setErr_rx (s : State) (v : ErrCode) : (s.setErr v).rx = s.rx := rfl
@[simp] theorem State.setErr_answers (s : State) (v : ErrCode) : (s.setErr v).answers = s.answers := rfl

/-! ### `setAnswers` -/

@[simp] theorem State.setAnswers_params (s : State) (v : Answers) : (s.setAnswers v).params = s.params := rfl
@[simp] theorem State.setAnswers_ls (s : State) (v : Answers) : (s.setAnswers v).ls = s.ls := rfl
@[simp] theorem State.setAnswers_phase (s : State) (v : Answers) : (s.setAnswers v).phase = s.phase := rfl
@[simp] theorem State.setAnswers_count (s : State) (v : Answers) : (s.setAnswers v).count = s.count := rfl
@[simp] theorem State.setAnswers_stopReq (s : State) (v : Answers) : (s.setAnswers v).stopReq = s.stopReq := rfl
@[simp] theorem State.setAnswers_wrSel (s : State) (v : Answers) : (s.setAnswers v).wrSel = s.wrSel := rfl
@[simp] theorem State.setAnswers_speedSum (s : State) (v : Answers) : (s.setAnswers v).speedSum = s.speedSum := rfl
@[simp] theorem State.setAnswers_target (s : State) (v : Answers) : (s.setAnswers v).target = s.target := rfl
@[simp] theorem State.setAnswers_pwmRange (s : State) (v : Answers) : (s.setAnswers v).pwmRange = s.pwmRange := rfl
@[simp] theorem State.setAnswers_drive (s : State) (v : Answers) : (s.setAnswers v).drive = s.drive := rfl
@[simp] theorem State.setAnswers_cbEn (s : State) (v : Answers) : (s.setAnswers v).cbEn = s.cbEn := rfl
@[simp] theorem State.setAnswers_scanReady (s : State) (v : Answers) : (s.setAnswers v).scanReady = s.scanReady := rfl
@[simp] theorem State.setAnswers_err (s : State) (v : Answers) : (s.setAnswers v).err = s.err := rfl
@[simp] theorem State.setAnswers_frame (s : State) (v : Answers) : (s.setAnswers v).frame = s.frame := rfl
@[simp] theorem State.setAnswers_bank0 (s : State) (v : Answers) : (s.setAnswers v).bank0 = s.bank0 := rfl
@[simp] theorem State.setAnswers_bank1 (s : State) (v : Answers) : (s.setAnswers v).bank1 = s.bank1 := rfl
@[simp] theorem State.setAnswers_boots (s : State) (v : Answers) : (s.setAnswers v).boots = s.boots := rfl
@[simp] theorem State.setAnswers_draws (s : State) (v : Answers) : (s.setAnswers v).draws = s.draws := rfl
@[simp] theorem State.setAnswers_trace (s : State) (v : Answers) : (s.setAnswers v).trace = s.trace := rfl
@[simp] theorem State.setAnswers_turns (s : State) (v : Answers) : (s.setAnswers v).turns = s.turns := rfl
@[simp] theorem State.setAnswers_rx (s : State) (v : Answers) : (s.setAnswers v).rx = s.rx := rfl
@[simp] theorem State.setAnswers_answers (s : State) (v : Answers) : (s.setAnswers v).answers = v := rfl

/-! ### `fixAnswer` -/

@[simp] theorem State.fixAnswer_params (s : State) (v : FixedAnswer) : (s.fixAnswer v).params = s.params := rfl
@[simp] theorem State.fixAnswer_ls (s : State) (v : FixedAnswer) : (s.fixAnswer v).ls = s.ls := rfl
@[simp] theorem State.fixAnswer_phase (s : State) (v : FixedAnswer) : (s.fixAnswer v).phase = s.phase := rfl
@[simp] theorem State.fixAnswer_count (s : State) (v : FixedAnswer) : (s.fixAnswer v).count = s.count := rfl
@[simp] theorem State.fixAnswer_stopReq (s : State) (v : FixedAnswer) : (s.fixAnswer v).stopReq = s.stopReq := rfl
@[simp] theorem State.fixAnswer_wrSel (s : State) (v : FixedAnswer) : (s.fixAnswer v).wrSel = s.wrSel := rfl
@[simp] theorem State.fixAnswer_speedSum (s : State) (v : FixedAnswer) : (s.fixAnswer v).speedSum = s.speedSum := rfl
@[simp] theorem State.fixAnswer_target (s : State) (v : FixedAnswer) : (s.fixAnswer v).target = s.target := rfl
@[simp] theorem State.fixAnswer_pwmRange (s : State) (v : FixedAnswer) : (s.fixAnswer v).pwmRange = s.pwmRange := rfl
@[simp] theorem State.fixAnswer_drive (s : State) (v : FixedAnswer) : (s.fixAnswer v).drive = s.drive := rfl
@[simp] theorem State.fixAnswer_cbEn (s : State) (v : FixedAnswer) : (s.fixAnswer v).cbEn = s.cbEn := rfl
@[simp] theorem State.fixAnswer_scanReady (s : State) (v : FixedAnswer) : (s.fixAnswer v).scanReady = s.scanReady := rfl
@[simp] theorem State.fixAnswer_err (s : State) (v : FixedAnswer) : (s.fixAnswer v).err = s.err := rfl
@[simp] theorem State.fixAnswer_frame (s : State) (v : FixedAnswer) : (s.fixAnswer v).frame = s.frame := rfl
@[simp] theorem State.fixAnswer_bank0 (s : State) (v : FixedAnswer) : (s.fixAnswer v).bank0 = s.bank0 := rfl
@[simp] theorem State.fixAnswer_bank1 (s : State) (v : FixedAnswer) : (s.fixAnswer v).bank1 = s.bank1 := rfl
@[simp] theorem State.fixAnswer_boots (s : State) (v : FixedAnswer) : (s.fixAnswer v).boots = s.boots := rfl
@[simp] theorem State.fixAnswer_draws (s : State) (v : FixedAnswer) : (s.fixAnswer v).draws = s.draws := rfl
@[simp] theorem State.fixAnswer_trace (s : State) (v : FixedAnswer) : (s.fixAnswer v).trace = s.trace := rfl
@[simp] theorem State.fixAnswer_turns (s : State) (v : FixedAnswer) : (s.fixAnswer v).turns = s.turns := rfl
@[simp] theorem State.fixAnswer_rx (s : State) (v : FixedAnswer) : (s.fixAnswer v).rx = s.rx := rfl
@[simp] theorem State.fixAnswer_answers (s : State) (a : FixedAnswer) : (s.fixAnswer a).answers = s.answers.fix a := rfl

/-! ### `setTurns` -/

@[simp] theorem State.setTurns_params (s : State) (v : List Turn) : (s.setTurns v).params = s.params := rfl
@[simp] theorem State.setTurns_ls (s : State) (v : List Turn) : (s.setTurns v).ls = s.ls := rfl
@[simp] theorem State.setTurns_phase (s : State) (v : List Turn) : (s.setTurns v).phase = s.phase := rfl
@[simp] theorem State.setTurns_count (s : State) (v : List Turn) : (s.setTurns v).count = s.count := rfl
@[simp] theorem State.setTurns_stopReq (s : State) (v : List Turn) : (s.setTurns v).stopReq = s.stopReq := rfl
@[simp] theorem State.setTurns_wrSel (s : State) (v : List Turn) : (s.setTurns v).wrSel = s.wrSel := rfl
@[simp] theorem State.setTurns_speedSum (s : State) (v : List Turn) : (s.setTurns v).speedSum = s.speedSum := rfl
@[simp] theorem State.setTurns_target (s : State) (v : List Turn) : (s.setTurns v).target = s.target := rfl
@[simp] theorem State.setTurns_pwmRange (s : State) (v : List Turn) : (s.setTurns v).pwmRange = s.pwmRange := rfl
@[simp] theorem State.setTurns_drive (s : State) (v : List Turn) : (s.setTurns v).drive = s.drive := rfl
@[simp] theorem State.setTurns_cbEn (s : State) (v : List Turn) : (s.setTurns v).cbEn = s.cbEn := rfl
@[simp] theorem State.setTurns_scanReady (s : State) (v : List Turn) : (s.setTurns v).scanReady = s.scanReady := rfl
@[simp] theorem State.setTurns_err (s : State) (v : List Turn) : (s.setTurns v).err = s.err := rfl
@[simp] theorem State.setTurns_frame (s : State) (v : List Turn) : (s.setTurns v).frame = s.frame := rfl
@[simp] theorem State.setTurns_bank0 (s : State) (v : List Turn) : (s.setTurns v).bank0 = s.bank0 := rfl
@[simp] theorem State.setTurns_bank1 (s : State) (v : List Turn) : (s.setTurns v).bank1 = s.bank1 := rfl
@[simp] theorem State.setTurns_boots (s : State) (v : List Turn) : (s.setTurns v).boots = s.boots := rfl
@[simp] theorem State.setTurns_draws (s : State) (v : List Turn) : (s.setTurns v).draws = s.draws := rfl
@[simp] theorem State.setTurns_trace (s : State) (v : List Turn) : (s.setTurns v).trace = s.trace := rfl
@[simp] theorem State.setTurns_turns (s : State) (v : List Turn) : (s.setTurns v).turns = v := rfl
@[simp] theorem State.setTurns_rx (s : State) (v : List Turn) : (s.setTurns v).rx = s.rx := rfl
@[simp] theorem State.setTurns_answers (s : State) (v : List Turn) : (s.setTurns v).answers = s.answers := rfl

/-! ### `setRx` -/

@[simp] theorem State.setRx_params (s : State) (v : List Token) : (s.setRx v).params = s.params := rfl
@[simp] theorem State.setRx_ls (s : State) (v : List Token) : (s.setRx v).ls = s.ls := rfl
@[simp] theorem State.setRx_phase (s : State) (v : List Token) : (s.setRx v).phase = s.phase := rfl
@[simp] theorem State.setRx_count (s : State) (v : List Token) : (s.setRx v).count = s.count := rfl
@[simp] theorem State.setRx_stopReq (s : State) (v : List Token) : (s.setRx v).stopReq = s.stopReq := rfl
@[simp] theorem State.setRx_wrSel (s : State) (v : List Token) : (s.setRx v).wrSel = s.wrSel := rfl
@[simp] theorem State.setRx_speedSum (s : State) (v : List Token) : (s.setRx v).speedSum = s.speedSum := rfl
@[simp] theorem State.setRx_target (s : State) (v : List Token) : (s.setRx v).target = s.target := rfl
@[simp] theorem State.setRx_pwmRange (s : State) (v : List Token) : (s.setRx v).pwmRange = s.pwmRange := rfl
@[simp] theorem State.setRx_drive (s : State) (v : List Token) : (s.setRx v).drive = s.drive := rfl
@[simp] theorem State.setRx_cbEn (s : State) (v : List Token) : (s.setRx v).cbEn = s.cbEn := rfl
@[simp] theorem State.setRx_scanReady (s : State) (v : List Token) : (s.setRx v).scanReady = s.scanReady := rfl
@[simp] theorem State.setRx_err (s : State) (v : List Token) : (s.setRx v).err = s.err := rfl
@[simp] theorem State.setRx_frame (s : State) (v : List Token) : (s.setRx v).frame = s.frame := rfl
@[simp] theorem State.setRx_bank0 (s : State) (v : List Token) : (s.setRx v).bank0 = s.bank0 := rfl
@[simp] theorem State.setRx_bank1 (s : State) (v : List Token) : (s.setRx v).bank1 = s.bank1 := rfl
@[simp] theorem State.setRx_boots (s : State) (v : List Token) : (s.setRx v).boots = s.boots := rfl
@[simp] theorem State.setRx_draws (s : State) (v : List Token) : (s.setRx v).draws = s.draws := rfl
@[simp] theorem State.setRx_trace (s : State) (v : List Token) : (s.setRx v).trace = s.trace := rfl
@[simp] theorem State.setRx_turns (s : State) (v : List Token) : (s.setRx v).turns = s.turns := rfl
@[simp] theorem State.setRx_rx (s : State) (v : List Token) : (s.setRx v).rx = v := rfl
@[simp] theorem State.setRx_answers (s : State) (v : List Token) : (s.setRx v).answers = s.answers := rfl

/-! ### `invalidateScan` -/

@[simp] theorem State.invalidateScan_params (s : State) : (s.invalidateScan).params = s.params := rfl
@[simp] theorem State.invalidateScan_ls (s : State) : (s.invalidateScan).ls = s.ls := rfl
@[simp] theorem State.invalidateScan_phase (s : State) : (s.invalidateScan).phase = s.phase := rfl
@[simp] theorem State.invalidateScan_count (s : State) : (s.invalidateScan).count = s.count := rfl
@[simp] theorem State.invalidateScan_stopReq (s : State) : (s.invalidateScan).stopReq = s.stopReq := rfl
@[simp] theorem State.invalidateScan_wrSel (s : State) : (s.invalidateScan).wrSel = s.wrSel := rfl
@[simp] theorem State.invalidateScan_speedSum (s : State) : (s.invalidateScan).speedSum = s.speedSum := rfl
@[simp] theorem State.invalidateScan_target (s : State) : (s.invalidateScan).target = s.target := rfl
@[simp] theorem State.invalidateScan_pwmRange (s : State) : (s.invalidateScan).pwmRange = s.pwmRange := rfl
@[simp] theorem State.invalidateScan_drive (s : State) : (s.invalidateScan).drive = s.drive := rfl
@[simp] theorem State.invalidateScan_cbEn (s : State) : (s.invalidateScan).cbEn = s.cbEn := rfl
@[simp] theorem State.invalidateScan_scanReady (s : State) : (s.invalidateScan).scanReady = s.scanReady := rfl
@[simp] theorem State.invalidateScan_err (s : State) : (s.invalidateScan).err = s.err := rfl
@[simp] theorem State.invalidateScan_frame (s : State) : (s.invalidateScan).frame = s.frame := rfl
@[simp] theorem State.invalidateScan_bank0 (s : State) : (s.invalidateScan).bank0 = invalidated s.bank0 := rfl
@[simp] theorem State.invalidateScan_bank1 (s : State) : (s.invalidateScan).bank1 = invalidated s.bank1 := rfl
@[simp] theorem State.invalidateScan_boots (s : State) : (s.invalidateScan).boots = s.boots := rfl
@[simp] theorem State.invalidateScan_draws (s : State) : (s.invalidateScan).draws = s.draws := rfl
@[simp] theorem State.invalidateScan_trace (s : State) : (s.invalidateScan).trace = s.trace := rfl
@[simp] theorem State.invalidateScan_turns (s : State) : (s.invalidateScan).turns = s.turns := rfl
@[simp] theorem State.invalidateScan_rx (s : State) : (s.invalidateScan).rx = s.rx := rfl
@[simp] theorem State.invalidateScan_answers (s : State) : (s.invalidateScan).answers = s.answers := rfl

/-! ### `log` -/

@[simp] theorem State.log_params (s : State) (o : Obs) : (s.log o).params = s.params := rfl
@[simp] theorem State.log_ls (s : State) (o : Obs) : (s.log o).ls = s.ls := rfl
@[simp] theorem State.log_phase (s : State) (o : Obs) : (s.log o).phase = s.phase := rfl
@[simp] theorem State.log_count (s : State) (o : Obs) : (s.log o).count = s.count := rfl
@[simp] theorem State.log_stopReq (s : State) (o : Obs) : (s.log o).stopReq = s.stopReq := rfl
@[simp] theorem State.log_wrSel (s : State) (o : Obs) : (s.log o).wrSel = s.wrSel := rfl
@[simp] theorem State.log_speedSum (s : State) (o : Obs) : (s.log o).speedSum = s.speedSum := rfl
@[simp] theorem State.log_target (s : State) (o : Obs) : (s.log o).target = s.target := rfl
@[simp] theorem State.log_pwmRange (s : State) (o : Obs) : (s.log o).pwmRange = s.pwmRange := rfl
@[simp] theorem State.log_drive (s : State) (o : Obs) : (s.log o).drive = s.drive := rfl
@[simp] theorem State.log_cbEn (s : State) (o : Obs) : (s.log o).cbEn = s.cbEn := rfl
@[simp] theorem State.log_scanReady (s : State) (o : Obs) : (s.log o).scanReady = s.scanReady := rfl
@[simp] theorem State.log_err (s : State) (o : Obs) : (s.log o).err = s.err := rfl
@[simp] theorem State.log_frame (s : State) (o : Obs) : (s.log o).frame = s.frame := rfl
@[simp] theorem State.log_bank0 (s : State) (o : Obs) : (s.log o).bank0 = s.bank0 := rfl
@[simp] theorem State.log_bank1 (s : State) (o : Obs) : (s.log o).bank1 = s.bank1 := rfl
@[simp] theorem State.log_boots (s : State) (o : Obs) : (s.log o).boots = s.boots := rfl
@[simp] theorem State.log_draws (s : State) (o : Obs) : (s.log o).draws = s.draws := rfl
@[simp] theorem State.log_trace (s : State) (o : Obs) : (s.log o).trace = s.trace ++ [o] := rfl
@[simp] theorem State.log_turns (s : State) (o : Obs) : (s.log o).turns = s.turns := rfl
@[simp] theorem State.log_rx (s : State) (o : Obs) : (s.log o).rx = s.rx := rfl
@[simp] theorem State.log_answers (s : State) (o : Obs) : (s.log o).answers = s.answers := rfl

/-! ### `respond` -/

@[simp] theorem State.respond_params (s : State) (st : RespStatus) (d : List Word) : (s.respond st d).params = s.params := rfl
@[simp] theorem State.respond_ls (s : State) (st : RespStatus) (d : List Word) : (s.respond st d).ls = s.ls := rfl
@[simp] theorem State.respond_phase (s : State) (st : RespStatus) (d : List Word) : (s.respond st d).phase = s.phase := rfl
@[simp] theorem State.respond_count (s : State) (st : RespStatus) (d : List Word) : (s.respond st d).count = s.count := rfl
@[simp] theorem State.respond_stopReq (s : State) (st : RespStatus) (d : List Word) : (s.respond st d).stopReq = s.stopReq := rfl
@[simp] theorem State.respond_wrSel (s : State) (st : RespStatus) (d : List Word) : (s.respond st d).wrSel = s.wrSel := rfl
@[simp] theorem State.respond_speedSum (s : State) (st : RespStatus) (d : List Word) : (s.respond st d).speedSum = s.speedSum := rfl
@[simp] theorem State.respond_target (s : State) (st : RespStatus) (d : List Word) : (s.respond st d).target = s.target := rfl
@[simp] theorem State.respond_pwmRange (s : State) (st : RespStatus) (d : List Word) : (s.respond st d).pwmRange = s.pwmRange := rfl
@[simp] theorem State.respond_drive (s : State) (st : RespStatus) (d : List Word) : (s.respond st d).drive = s.drive := rfl
@[simp] theorem State.respond_cbEn (s : State) (st : RespStatus) (d : List Word) : (s.respond st d).cbEn = s.cbEn := rfl
@[simp] theorem State.respond_scanReady (s : State) (st : RespStatus) (d : List Word) : (s.respond st d).scanReady = s.scanReady := rfl
@[simp] theorem State.respond_err (s : State) (st : RespStatus) (d : List Word) : (s.respond st d).err = s.err := rfl
@[simp] theorem State.respond_frame (s : State) (st : RespStatus) (d : List Word) : (s.respond st d).frame = s.frame := rfl
@[simp] theorem State.respond_bank0 (s : State) (st : RespStatus) (d : List Word) : (s.respond st d).bank0 = s.bank0 := rfl
@[simp] theorem State.respond_bank1 (s : State) (st : RespStatus) (d : List Word) : (s.respond st d).bank1 = s.bank1 := rfl
@[simp] theorem State.respond_boots (s : State) (st : RespStatus) (d : List Word) : (s.respond st d).boots = s.boots := rfl
@[simp] theorem State.respond_draws (s : State) (st : RespStatus) (d : List Word) : (s.respond st d).draws = s.draws := rfl
@[simp] theorem State.respond_trace (s : State) (st : RespStatus) (d : List Word) : (s.respond st d).trace = s.trace ++ [.response st.code d] := rfl
@[simp] theorem State.respond_turns (s : State) (st : RespStatus) (d : List Word) : (s.respond st d).turns = s.turns := rfl
@[simp] theorem State.respond_rx (s : State) (st : RespStatus) (d : List Word) : (s.respond st d).rx = s.rx := rfl
@[simp] theorem State.respond_answers (s : State) (st : RespStatus) (d : List Word) : (s.respond st d).answers = s.answers := rfl

/-! ### `badCommand` -/

@[simp] theorem State.badCommand_params (s : State) : (s.badCommand).params = s.params := rfl
@[simp] theorem State.badCommand_ls (s : State) : (s.badCommand).ls = s.ls := rfl
@[simp] theorem State.badCommand_phase (s : State) : (s.badCommand).phase = s.phase := rfl
@[simp] theorem State.badCommand_count (s : State) : (s.badCommand).count = s.count := rfl
@[simp] theorem State.badCommand_stopReq (s : State) : (s.badCommand).stopReq = s.stopReq := rfl
@[simp] theorem State.badCommand_wrSel (s : State) : (s.badCommand).wrSel = s.wrSel := rfl
@[simp] theorem State.badCommand_speedSum (s : State) : (s.badCommand).speedSum = s.speedSum := rfl
@[simp] theorem State.badCommand_target (s : State) : (s.badCommand).target = s.target := rfl
@[simp] theorem State.badCommand_pwmRange (s : State) : (s.badCommand).pwmRange = s.pwmRange := rfl
@[simp] theorem State.badCommand_drive (s : State) : (s.badCommand).drive = s.drive := rfl
@[simp] theorem State.badCommand_cbEn (s : State) : (s.badCommand).cbEn = s.cbEn := rfl
@[simp] theorem State.badCommand_scanReady (s : State) : (s.badCommand).scanReady = s.scanReady := rfl
@[simp] theorem State.badCommand_err (s : State) : (s.badCommand).err = s.err := rfl
@[simp] theorem State.badCommand_frame (s : State) : (s.badCommand).frame = s.frame := rfl
@[simp] theorem State.badCommand_bank0 (s : State) : (s.badCommand).bank0 = s.bank0 := rfl
@[simp] theorem State.badCommand_bank1 (s : State) : (s.badCommand).bank1 = s.bank1 := rfl
@[simp] theorem State.badCommand_boots (s : State) : (s.badCommand).boots = s.boots := rfl
@[simp] theorem State.badCommand_draws (s : State) : (s.badCommand).draws = s.draws := rfl
@[simp] theorem State.badCommand_trace (s : State) : (s.badCommand).trace = s.trace ++ [.response 1#32 []] := rfl
@[simp] theorem State.badCommand_turns (s : State) : (s.badCommand).turns = s.turns := rfl
@[simp] theorem State.badCommand_rx (s : State) : (s.badCommand).rx = s.rx := rfl
@[simp] theorem State.badCommand_answers (s : State) : (s.badCommand).answers = s.answers := rfl

/-! ### `call` -/

@[simp] theorem State.call_params (s : State) (r : Request) : (s.call r).params = s.params := rfl
@[simp] theorem State.call_ls (s : State) (r : Request) : (s.call r).ls = s.ls := rfl
@[simp] theorem State.call_phase (s : State) (r : Request) : (s.call r).phase = s.phase := rfl
@[simp] theorem State.call_count (s : State) (r : Request) : (s.call r).count = s.count := rfl
@[simp] theorem State.call_stopReq (s : State) (r : Request) : (s.call r).stopReq = s.stopReq := rfl
@[simp] theorem State.call_wrSel (s : State) (r : Request) : (s.call r).wrSel = s.wrSel := rfl
@[simp] theorem State.call_speedSum (s : State) (r : Request) : (s.call r).speedSum = s.speedSum := rfl
@[simp] theorem State.call_target (s : State) (r : Request) : (s.call r).target = s.target := rfl
@[simp] theorem State.call_pwmRange (s : State) (r : Request) : (s.call r).pwmRange = s.pwmRange := rfl
@[simp] theorem State.call_drive (s : State) (r : Request) : (s.call r).drive = s.drive := rfl
@[simp] theorem State.call_cbEn (s : State) (r : Request) : (s.call r).cbEn = s.cbEn := rfl
@[simp] theorem State.call_scanReady (s : State) (r : Request) : (s.call r).scanReady = s.scanReady := rfl
@[simp] theorem State.call_err (s : State) (r : Request) : (s.call r).err = s.err := rfl
@[simp] theorem State.call_frame (s : State) (r : Request) : (s.call r).frame = s.frame := rfl
@[simp] theorem State.call_bank0 (s : State) (r : Request) : (s.call r).bank0 = s.bank0 := rfl
@[simp] theorem State.call_bank1 (s : State) (r : Request) : (s.call r).bank1 = s.bank1 := rfl
@[simp] theorem State.call_boots (s : State) (r : Request) : (s.call r).boots = s.boots := rfl
@[simp] theorem State.call_draws (s : State) (r : Request) : (s.call r).draws = s.draws := rfl
@[simp] theorem State.call_trace (s : State) (r : Request) : (s.call r).trace = s.trace ++ [.call r .nothing] := rfl
@[simp] theorem State.call_turns (s : State) (r : Request) : (s.call r).turns = s.turns := rfl
@[simp] theorem State.call_rx (s : State) (r : Request) : (s.call r).rx = s.rx := rfl
@[simp] theorem State.call_answers (s : State) (r : Request) : (s.call r).answers = s.answers := rfl

/-! ### `requestRead` -/

@[simp] theorem State.requestRead_params (s : State) (n : Nat) : (s.requestRead n).params = s.params := rfl
@[simp] theorem State.requestRead_ls (s : State) (n : Nat) : (s.requestRead n).ls = s.ls := rfl
@[simp] theorem State.requestRead_phase (s : State) (n : Nat) : (s.requestRead n).phase = s.phase := rfl
@[simp] theorem State.requestRead_count (s : State) (n : Nat) : (s.requestRead n).count = s.count := rfl
@[simp] theorem State.requestRead_stopReq (s : State) (n : Nat) : (s.requestRead n).stopReq = s.stopReq := rfl
@[simp] theorem State.requestRead_wrSel (s : State) (n : Nat) : (s.requestRead n).wrSel = s.wrSel := rfl
@[simp] theorem State.requestRead_speedSum (s : State) (n : Nat) : (s.requestRead n).speedSum = s.speedSum := rfl
@[simp] theorem State.requestRead_target (s : State) (n : Nat) : (s.requestRead n).target = s.target := rfl
@[simp] theorem State.requestRead_pwmRange (s : State) (n : Nat) : (s.requestRead n).pwmRange = s.pwmRange := rfl
@[simp] theorem State.requestRead_drive (s : State) (n : Nat) : (s.requestRead n).drive = s.drive := rfl
@[simp] theorem State.requestRead_cbEn (s : State) (n : Nat) : (s.requestRead n).cbEn = s.cbEn := rfl
@[simp] theorem State.requestRead_scanReady (s : State) (n : Nat) : (s.requestRead n).scanReady = s.scanReady := rfl
@[simp] theorem State.requestRead_err (s : State) (n : Nat) : (s.requestRead n).err = s.err := rfl
@[simp] theorem State.requestRead_frame (s : State) (n : Nat) : (s.requestRead n).frame = s.frame := rfl
@[simp] theorem State.requestRead_bank0 (s : State) (n : Nat) : (s.requestRead n).bank0 = s.bank0 := rfl
@[simp] theorem State.requestRead_bank1 (s : State) (n : Nat) : (s.requestRead n).bank1 = s.bank1 := rfl
@[simp] theorem State.requestRead_boots (s : State) (n : Nat) : (s.requestRead n).boots = s.boots := rfl
@[simp] theorem State.requestRead_draws (s : State) (n : Nat) : (s.requestRead n).draws = s.draws := rfl
@[simp] theorem State.requestRead_trace (s : State) (n : Nat) : (s.requestRead n).trace = s.trace ++ [.call (.transportRead n) .nothing] := rfl
@[simp] theorem State.requestRead_turns (s : State) (n : Nat) : (s.requestRead n).turns = s.turns := rfl
@[simp] theorem State.requestRead_rx (s : State) (n : Nat) : (s.requestRead n).rx = s.rx := rfl
@[simp] theorem State.requestRead_answers (s : State) (n : Nat) : (s.requestRead n).answers = s.answers := rfl

/-! ### `writeDuty` -/

@[simp] theorem State.writeDuty_params (s : State) : (s.writeDuty).params = s.params := rfl
@[simp] theorem State.writeDuty_ls (s : State) : (s.writeDuty).ls = s.ls := rfl
@[simp] theorem State.writeDuty_phase (s : State) : (s.writeDuty).phase = s.phase := rfl
@[simp] theorem State.writeDuty_count (s : State) : (s.writeDuty).count = s.count := rfl
@[simp] theorem State.writeDuty_stopReq (s : State) : (s.writeDuty).stopReq = s.stopReq := rfl
@[simp] theorem State.writeDuty_wrSel (s : State) : (s.writeDuty).wrSel = s.wrSel := rfl
@[simp] theorem State.writeDuty_speedSum (s : State) : (s.writeDuty).speedSum = s.speedSum := rfl
@[simp] theorem State.writeDuty_target (s : State) : (s.writeDuty).target = s.target := rfl
@[simp] theorem State.writeDuty_pwmRange (s : State) : (s.writeDuty).pwmRange = s.pwmRange := rfl
@[simp] theorem State.writeDuty_drive (s : State) : (s.writeDuty).drive = s.drive := rfl
@[simp] theorem State.writeDuty_cbEn (s : State) : (s.writeDuty).cbEn = s.cbEn := rfl
@[simp] theorem State.writeDuty_scanReady (s : State) : (s.writeDuty).scanReady = s.scanReady := rfl
@[simp] theorem State.writeDuty_err (s : State) : (s.writeDuty).err = s.err := rfl
@[simp] theorem State.writeDuty_frame (s : State) : (s.writeDuty).frame = s.frame := rfl
@[simp] theorem State.writeDuty_bank0 (s : State) : (s.writeDuty).bank0 = s.bank0 := rfl
@[simp] theorem State.writeDuty_bank1 (s : State) : (s.writeDuty).bank1 = s.bank1 := rfl
@[simp] theorem State.writeDuty_boots (s : State) : (s.writeDuty).boots = s.boots := rfl
@[simp] theorem State.writeDuty_draws (s : State) : (s.writeDuty).draws = s.draws := rfl
@[simp] theorem State.writeDuty_trace (s : State) : (s.writeDuty).trace = s.trace ++ [.call (.writeDuty s.params.pwmChannel s.drive) .nothing] := rfl
@[simp] theorem State.writeDuty_turns (s : State) : (s.writeDuty).turns = s.turns := rfl
@[simp] theorem State.writeDuty_rx (s : State) : (s.writeDuty).rx = s.rx := rfl
@[simp] theorem State.writeDuty_answers (s : State) : (s.writeDuty).answers = s.answers := rfl

/-! ### `drew` -/

@[simp] theorem State.drew_params (s : State) : (s.drew).params = s.params := rfl
@[simp] theorem State.drew_ls (s : State) : (s.drew).ls = s.ls := rfl
@[simp] theorem State.drew_phase (s : State) : (s.drew).phase = s.phase := rfl
@[simp] theorem State.drew_count (s : State) : (s.drew).count = s.count := rfl
@[simp] theorem State.drew_stopReq (s : State) : (s.drew).stopReq = s.stopReq := rfl
@[simp] theorem State.drew_wrSel (s : State) : (s.drew).wrSel = s.wrSel := rfl
@[simp] theorem State.drew_speedSum (s : State) : (s.drew).speedSum = s.speedSum := rfl
@[simp] theorem State.drew_target (s : State) : (s.drew).target = s.target := rfl
@[simp] theorem State.drew_pwmRange (s : State) : (s.drew).pwmRange = s.pwmRange := rfl
@[simp] theorem State.drew_drive (s : State) : (s.drew).drive = s.drive := rfl
@[simp] theorem State.drew_cbEn (s : State) : (s.drew).cbEn = s.cbEn := rfl
@[simp] theorem State.drew_scanReady (s : State) : (s.drew).scanReady = s.scanReady := rfl
@[simp] theorem State.drew_err (s : State) : (s.drew).err = s.err := rfl
@[simp] theorem State.drew_frame (s : State) : (s.drew).frame = s.frame := rfl
@[simp] theorem State.drew_bank0 (s : State) : (s.drew).bank0 = s.bank0 := rfl
@[simp] theorem State.drew_bank1 (s : State) : (s.drew).bank1 = s.bank1 := rfl
@[simp] theorem State.drew_boots (s : State) : (s.drew).boots = s.boots := rfl
@[simp] theorem State.drew_draws (s : State) : (s.drew).draws = s.draws + 1 := rfl
@[simp] theorem State.drew_trace (s : State) : (s.drew).trace = s.trace := rfl
@[simp] theorem State.drew_turns (s : State) : (s.drew).turns = s.turns := rfl
@[simp] theorem State.drew_rx (s : State) : (s.drew).rx = s.rx := rfl
@[simp] theorem State.drew_answers (s : State) : (s.drew).answers = s.answers := rfl

/-! ### `drewIf` -/

@[simp] theorem State.drewIf_params (s : State) (m : Bool) : (s.drewIf m).params = s.params := by cases m <;> rfl
@[simp] theorem State.drewIf_ls (s : State) (m : Bool) : (s.drewIf m).ls = s.ls := by cases m <;> rfl
@[simp] theorem State.drewIf_phase (s : State) (m : Bool) : (s.drewIf m).phase = s.phase := by cases m <;> rfl
@[simp] theorem State.drewIf_count (s : State) (m : Bool) : (s.drewIf m).count = s.count := by cases m <;> rfl
@[simp] theorem State.drewIf_stopReq (s : State) (m : Bool) : (s.drewIf m).stopReq = s.stopReq := by cases m <;> rfl
@[simp] theorem State.drewIf_wrSel (s : State) (m : Bool) : (s.drewIf m).wrSel = s.wrSel := by cases m <;> rfl
@[simp] theorem State.drewIf_speedSum (s : State) (m : Bool) : (s.drewIf m).speedSum = s.speedSum := by cases m <;> rfl
@[simp] theorem State.drewIf_target (s : State) (m : Bool) : (s.drewIf m).target = s.target := by cases m <;> rfl
@[simp] theorem State.drewIf_pwmRange (s : State) (m : Bool) : (s.drewIf m).pwmRange = s.pwmRange := by cases m <;> rfl
@[simp] theorem State.drewIf_drive (s : State) (m : Bool) : (s.drewIf m).drive = s.drive := by cases m <;> rfl
@[simp] theorem State.drewIf_cbEn (s : State) (m : Bool) : (s.drewIf m).cbEn = s.cbEn := by cases m <;> rfl
@[simp] theorem State.drewIf_scanReady (s : State) (m : Bool) : (s.drewIf m).scanReady = s.scanReady := by cases m <;> rfl
@[simp] theorem State.drewIf_err (s : State) (m : Bool) : (s.drewIf m).err = s.err := by cases m <;> rfl
@[simp] theorem State.drewIf_frame (s : State) (m : Bool) : (s.drewIf m).frame = s.frame := by cases m <;> rfl
@[simp] theorem State.drewIf_bank0 (s : State) (m : Bool) : (s.drewIf m).bank0 = s.bank0 := by cases m <;> rfl
@[simp] theorem State.drewIf_bank1 (s : State) (m : Bool) : (s.drewIf m).bank1 = s.bank1 := by cases m <;> rfl
@[simp] theorem State.drewIf_boots (s : State) (m : Bool) : (s.drewIf m).boots = s.boots := by cases m <;> rfl
@[simp] theorem State.drewIf_draws (s : State) (m : Bool) : (s.drewIf m).draws = if m then s.draws + 1 else s.draws := by cases m <;> rfl
@[simp] theorem State.drewIf_trace (s : State) (m : Bool) : (s.drewIf m).trace = s.trace := by cases m <;> rfl
@[simp] theorem State.drewIf_turns (s : State) (m : Bool) : (s.drewIf m).turns = s.turns := by cases m <;> rfl
@[simp] theorem State.drewIf_rx (s : State) (m : Bool) : (s.drewIf m).rx = s.rx := by cases m <;> rfl
@[simp] theorem State.drewIf_answers (s : State) (m : Bool) : (s.drewIf m).answers = s.answers := by cases m <;> rfl

/-! ### `putFrame` -/

@[simp] theorem State.putFrame_params (s : State) (i : Nat) (b : Byte) : (s.putFrame i b).params = s.params := rfl
@[simp] theorem State.putFrame_ls (s : State) (i : Nat) (b : Byte) : (s.putFrame i b).ls = s.ls := rfl
@[simp] theorem State.putFrame_phase (s : State) (i : Nat) (b : Byte) : (s.putFrame i b).phase = s.phase := rfl
@[simp] theorem State.putFrame_count (s : State) (i : Nat) (b : Byte) : (s.putFrame i b).count = s.count := rfl
@[simp] theorem State.putFrame_stopReq (s : State) (i : Nat) (b : Byte) : (s.putFrame i b).stopReq = s.stopReq := rfl
@[simp] theorem State.putFrame_wrSel (s : State) (i : Nat) (b : Byte) : (s.putFrame i b).wrSel = s.wrSel := rfl
@[simp] theorem State.putFrame_speedSum (s : State) (i : Nat) (b : Byte) : (s.putFrame i b).speedSum = s.speedSum := rfl
@[simp] theorem State.putFrame_target (s : State) (i : Nat) (b : Byte) : (s.putFrame i b).target = s.target := rfl
@[simp] theorem State.putFrame_pwmRange (s : State) (i : Nat) (b : Byte) : (s.putFrame i b).pwmRange = s.pwmRange := rfl
@[simp] theorem State.putFrame_drive (s : State) (i : Nat) (b : Byte) : (s.putFrame i b).drive = s.drive := rfl
@[simp] theorem State.putFrame_cbEn (s : State) (i : Nat) (b : Byte) : (s.putFrame i b).cbEn = s.cbEn := rfl
@[simp] theorem State.putFrame_scanReady (s : State) (i : Nat) (b : Byte) : (s.putFrame i b).scanReady = s.scanReady := rfl
@[simp] theorem State.putFrame_err (s : State) (i : Nat) (b : Byte) : (s.putFrame i b).err = s.err := rfl
@[simp] theorem State.putFrame_frame (s : State) (i : Nat) (b : Byte) : (s.putFrame i b).frame = Memory.write s.frame i b := rfl
@[simp] theorem State.putFrame_bank0 (s : State) (i : Nat) (b : Byte) : (s.putFrame i b).bank0 = s.bank0 := rfl
@[simp] theorem State.putFrame_bank1 (s : State) (i : Nat) (b : Byte) : (s.putFrame i b).bank1 = s.bank1 := rfl
@[simp] theorem State.putFrame_boots (s : State) (i : Nat) (b : Byte) : (s.putFrame i b).boots = s.boots := rfl
@[simp] theorem State.putFrame_draws (s : State) (i : Nat) (b : Byte) : (s.putFrame i b).draws = s.draws := rfl
@[simp] theorem State.putFrame_trace (s : State) (i : Nat) (b : Byte) : (s.putFrame i b).trace = s.trace := rfl
@[simp] theorem State.putFrame_turns (s : State) (i : Nat) (b : Byte) : (s.putFrame i b).turns = s.turns := rfl
@[simp] theorem State.putFrame_rx (s : State) (i : Nat) (b : Byte) : (s.putFrame i b).rx = s.rx := rfl
@[simp] theorem State.putFrame_answers (s : State) (i : Nat) (b : Byte) : (s.putFrame i b).answers = s.answers := rfl

/-! ### `putBank` -/

@[simp] theorem State.putBank_params (s : State) (k : BankNo) (b : Bank) : (s.putBank k b).params = s.params := by unfold State.putBank; split <;> rfl
@[simp] theorem State.putBank_ls (s : State) (k : BankNo) (b : Bank) : (s.putBank k b).ls = s.ls := by unfold State.putBank; split <;> rfl
@[simp] theorem State.putBank_phase (s : State) (k : BankNo) (b : Bank) : (s.putBank k b).phase = s.phase := by unfold State.putBank; split <;> rfl
@[simp] theorem State.putBank_count (s : State) (k : BankNo) (b : Bank) : (s.putBank k b).count = s.count := by unfold State.putBank; split <;> rfl
@[simp] theorem State.putBank_stopReq (s : State) (k : BankNo) (b : Bank) : (s.putBank k b).stopReq = s.stopReq := by unfold State.putBank; split <;> rfl
@[simp] theorem State.putBank_wrSel (s : State) (k : BankNo) (b : Bank) : (s.putBank k b).wrSel = s.wrSel := by unfold State.putBank; split <;> rfl
@[simp] theorem State.putBank_speedSum (s : State) (k : BankNo) (b : Bank) : (s.putBank k b).speedSum = s.speedSum := by unfold State.putBank; split <;> rfl
@[simp] theorem State.putBank_target (s : State) (k : BankNo) (b : Bank) : (s.putBank k b).target = s.target := by unfold State.putBank; split <;> rfl
@[simp] theorem State.putBank_pwmRange (s : State) (k : BankNo) (b : Bank) : (s.putBank k b).pwmRange = s.pwmRange := by unfold State.putBank; split <;> rfl
@[simp] theorem State.putBank_drive (s : State) (k : BankNo) (b : Bank) : (s.putBank k b).drive = s.drive := by unfold State.putBank; split <;> rfl
@[simp] theorem State.putBank_cbEn (s : State) (k : BankNo) (b : Bank) : (s.putBank k b).cbEn = s.cbEn := by unfold State.putBank; split <;> rfl
@[simp] theorem State.putBank_scanReady (s : State) (k : BankNo) (b : Bank) : (s.putBank k b).scanReady = s.scanReady := by unfold State.putBank; split <;> rfl
@[simp] theorem State.putBank_err (s : State) (k : BankNo) (b : Bank) : (s.putBank k b).err = s.err := by unfold State.putBank; split <;> rfl
@[simp] theorem State.putBank_frame (s : State) (k : BankNo) (b : Bank) : (s.putBank k b).frame = s.frame := by unfold State.putBank; split <;> rfl
@[simp] theorem State.putBank_bank0 (s : State) (k : BankNo) (b : Bank) : (s.putBank k b).bank0 = if k = 0#1 then b else s.bank0 := by unfold State.putBank; split <;> rfl
@[simp] theorem State.putBank_bank1 (s : State) (k : BankNo) (b : Bank) : (s.putBank k b).bank1 = if k = 0#1 then s.bank1 else b := by unfold State.putBank; split <;> rfl
@[simp] theorem State.putBank_boots (s : State) (k : BankNo) (b : Bank) : (s.putBank k b).boots = s.boots := by unfold State.putBank; split <;> rfl
@[simp] theorem State.putBank_draws (s : State) (k : BankNo) (b : Bank) : (s.putBank k b).draws = s.draws := by unfold State.putBank; split <;> rfl
@[simp] theorem State.putBank_trace (s : State) (k : BankNo) (b : Bank) : (s.putBank k b).trace = s.trace := by unfold State.putBank; split <;> rfl
@[simp] theorem State.putBank_turns (s : State) (k : BankNo) (b : Bank) : (s.putBank k b).turns = s.turns := by unfold State.putBank; split <;> rfl
@[simp] theorem State.putBank_rx (s : State) (k : BankNo) (b : Bank) : (s.putBank k b).rx = s.rx := by unfold State.putBank; split <;> rfl
@[simp] theorem State.putBank_answers (s : State) (k : BankNo) (b : Bank) : (s.putBank k b).answers = s.answers := by unfold State.putBank; split <;> rfl

/-! ### `inPhase` -/

@[simp] theorem State.inPhase_params (s : State) (p : Phase) : (s.inPhase p).params = s.params := rfl
@[simp] theorem State.inPhase_ls (s : State) (p : Phase) : (s.inPhase p).ls = p.lifecycle := rfl
@[simp] theorem State.inPhase_phase (s : State) (p : Phase) : (s.inPhase p).phase = p := rfl
@[simp] theorem State.inPhase_count (s : State) (p : Phase) : (s.inPhase p).count = s.count := rfl
@[simp] theorem State.inPhase_stopReq (s : State) (p : Phase) : (s.inPhase p).stopReq = s.stopReq := rfl
@[simp] theorem State.inPhase_wrSel (s : State) (p : Phase) : (s.inPhase p).wrSel = s.wrSel := rfl
@[simp] theorem State.inPhase_speedSum (s : State) (p : Phase) : (s.inPhase p).speedSum = s.speedSum := rfl
@[simp] theorem State.inPhase_target (s : State) (p : Phase) : (s.inPhase p).target = s.target := rfl
@[simp] theorem State.inPhase_pwmRange (s : State) (p : Phase) : (s.inPhase p).pwmRange = s.pwmRange := rfl
@[simp] theorem State.inPhase_drive (s : State) (p : Phase) : (s.inPhase p).drive = s.drive := rfl
@[simp] theorem State.inPhase_cbEn (s : State) (p : Phase) : (s.inPhase p).cbEn = s.cbEn := rfl
@[simp] theorem State.inPhase_scanReady (s : State) (p : Phase) : (s.inPhase p).scanReady = s.scanReady := rfl
@[simp] theorem State.inPhase_err (s : State) (p : Phase) : (s.inPhase p).err = s.err := rfl
@[simp] theorem State.inPhase_frame (s : State) (p : Phase) : (s.inPhase p).frame = s.frame := rfl
@[simp] theorem State.inPhase_bank0 (s : State) (p : Phase) : (s.inPhase p).bank0 = s.bank0 := rfl
@[simp] theorem State.inPhase_bank1 (s : State) (p : Phase) : (s.inPhase p).bank1 = s.bank1 := rfl
@[simp] theorem State.inPhase_boots (s : State) (p : Phase) : (s.inPhase p).boots = s.boots := rfl
@[simp] theorem State.inPhase_draws (s : State) (p : Phase) : (s.inPhase p).draws = s.draws := rfl
@[simp] theorem State.inPhase_trace (s : State) (p : Phase) : (s.inPhase p).trace = s.trace := rfl
@[simp] theorem State.inPhase_turns (s : State) (p : Phase) : (s.inPhase p).turns = s.turns := rfl
@[simp] theorem State.inPhase_rx (s : State) (p : Phase) : (s.inPhase p).rx = s.rx := rfl
@[simp] theorem State.inPhase_answers (s : State) (p : Phase) : (s.inPhase p).answers = s.answers := rfl

/-! ### `callOpen.2` -/

@[simp] theorem State.callOpen_params (s : State) : (s.callOpen).2.params = s.params := by simp [State.callOpen]
@[simp] theorem State.callOpen_ls (s : State) : (s.callOpen).2.ls = s.ls := by simp [State.callOpen]
@[simp] theorem State.callOpen_phase (s : State) : (s.callOpen).2.phase = s.phase := by simp [State.callOpen]
@[simp] theorem State.callOpen_count (s : State) : (s.callOpen).2.count = s.count := by simp [State.callOpen]
@[simp] theorem State.callOpen_stopReq (s : State) : (s.callOpen).2.stopReq = s.stopReq := by simp [State.callOpen]
@[simp] theorem State.callOpen_wrSel (s : State) : (s.callOpen).2.wrSel = s.wrSel := by simp [State.callOpen]
@[simp] theorem State.callOpen_speedSum (s : State) : (s.callOpen).2.speedSum = s.speedSum := by simp [State.callOpen]
@[simp] theorem State.callOpen_target (s : State) : (s.callOpen).2.target = s.target := by simp [State.callOpen]
@[simp] theorem State.callOpen_pwmRange (s : State) : (s.callOpen).2.pwmRange = s.pwmRange := by simp [State.callOpen]
@[simp] theorem State.callOpen_drive (s : State) : (s.callOpen).2.drive = s.drive := by simp [State.callOpen]
@[simp] theorem State.callOpen_cbEn (s : State) : (s.callOpen).2.cbEn = s.cbEn := by simp [State.callOpen]
@[simp] theorem State.callOpen_scanReady (s : State) : (s.callOpen).2.scanReady = s.scanReady := by simp [State.callOpen]
@[simp] theorem State.callOpen_err (s : State) : (s.callOpen).2.err = s.err := by simp [State.callOpen]
@[simp] theorem State.callOpen_frame (s : State) : (s.callOpen).2.frame = s.frame := by simp [State.callOpen]
@[simp] theorem State.callOpen_bank0 (s : State) : (s.callOpen).2.bank0 = s.bank0 := by simp [State.callOpen]
@[simp] theorem State.callOpen_bank1 (s : State) : (s.callOpen).2.bank1 = s.bank1 := by simp [State.callOpen]
@[simp] theorem State.callOpen_boots (s : State) : (s.callOpen).2.boots = s.boots := by simp [State.callOpen]
@[simp] theorem State.callOpen_trace (s : State) : (s.callOpen).2.trace = s.trace ++ [.call (.transportOpen s.params.serialPath s.params.line) (.okOrFail s.callOpen.1)] := by simp [State.callOpen]
@[simp] theorem State.callOpen_turns (s : State) : (s.callOpen).2.turns = s.turns := by simp [State.callOpen]
@[simp] theorem State.callOpen_rx (s : State) : (s.callOpen).2.rx = s.rx := by simp [State.callOpen]

/-! ### `callGpioInit.2` -/

@[simp] theorem State.callGpioInit_params (s : State) : (s.callGpioInit).2.params = s.params := by simp [State.callGpioInit]
@[simp] theorem State.callGpioInit_ls (s : State) : (s.callGpioInit).2.ls = s.ls := by simp [State.callGpioInit]
@[simp] theorem State.callGpioInit_phase (s : State) : (s.callGpioInit).2.phase = s.phase := by simp [State.callGpioInit]
@[simp] theorem State.callGpioInit_count (s : State) : (s.callGpioInit).2.count = s.count := by simp [State.callGpioInit]
@[simp] theorem State.callGpioInit_stopReq (s : State) : (s.callGpioInit).2.stopReq = s.stopReq := by simp [State.callGpioInit]
@[simp] theorem State.callGpioInit_wrSel (s : State) : (s.callGpioInit).2.wrSel = s.wrSel := by simp [State.callGpioInit]
@[simp] theorem State.callGpioInit_speedSum (s : State) : (s.callGpioInit).2.speedSum = s.speedSum := by simp [State.callGpioInit]
@[simp] theorem State.callGpioInit_target (s : State) : (s.callGpioInit).2.target = s.target := by simp [State.callGpioInit]
@[simp] theorem State.callGpioInit_pwmRange (s : State) : (s.callGpioInit).2.pwmRange = s.pwmRange := by simp [State.callGpioInit]
@[simp] theorem State.callGpioInit_drive (s : State) : (s.callGpioInit).2.drive = s.drive := by simp [State.callGpioInit]
@[simp] theorem State.callGpioInit_cbEn (s : State) : (s.callGpioInit).2.cbEn = s.cbEn := by simp [State.callGpioInit]
@[simp] theorem State.callGpioInit_scanReady (s : State) : (s.callGpioInit).2.scanReady = s.scanReady := by simp [State.callGpioInit]
@[simp] theorem State.callGpioInit_err (s : State) : (s.callGpioInit).2.err = s.err := by simp [State.callGpioInit]
@[simp] theorem State.callGpioInit_frame (s : State) : (s.callGpioInit).2.frame = s.frame := by simp [State.callGpioInit]
@[simp] theorem State.callGpioInit_bank0 (s : State) : (s.callGpioInit).2.bank0 = s.bank0 := by simp [State.callGpioInit]
@[simp] theorem State.callGpioInit_bank1 (s : State) : (s.callGpioInit).2.bank1 = s.bank1 := by simp [State.callGpioInit]
@[simp] theorem State.callGpioInit_boots (s : State) : (s.callGpioInit).2.boots = s.boots := by simp [State.callGpioInit]
@[simp] theorem State.callGpioInit_trace (s : State) : (s.callGpioInit).2.trace = s.trace ++ [.call .gpioInit (.okOrFail s.callGpioInit.1)] := by simp [State.callGpioInit]
@[simp] theorem State.callGpioInit_turns (s : State) : (s.callGpioInit).2.turns = s.turns := by simp [State.callGpioInit]
@[simp] theorem State.callGpioInit_rx (s : State) : (s.callGpioInit).2.rx = s.rx := by simp [State.callGpioInit]

/-! ### `callRealRange.2` -/

@[simp] theorem State.callRealRange_params (s : State) : (s.callRealRange).2.params = s.params := by simp [State.callRealRange]
@[simp] theorem State.callRealRange_ls (s : State) : (s.callRealRange).2.ls = s.ls := by simp [State.callRealRange]
@[simp] theorem State.callRealRange_phase (s : State) : (s.callRealRange).2.phase = s.phase := by simp [State.callRealRange]
@[simp] theorem State.callRealRange_count (s : State) : (s.callRealRange).2.count = s.count := by simp [State.callRealRange]
@[simp] theorem State.callRealRange_stopReq (s : State) : (s.callRealRange).2.stopReq = s.stopReq := by simp [State.callRealRange]
@[simp] theorem State.callRealRange_wrSel (s : State) : (s.callRealRange).2.wrSel = s.wrSel := by simp [State.callRealRange]
@[simp] theorem State.callRealRange_speedSum (s : State) : (s.callRealRange).2.speedSum = s.speedSum := by simp [State.callRealRange]
@[simp] theorem State.callRealRange_target (s : State) : (s.callRealRange).2.target = s.target := by simp [State.callRealRange]
@[simp] theorem State.callRealRange_pwmRange (s : State) : (s.callRealRange).2.pwmRange = s.pwmRange := by simp [State.callRealRange]
@[simp] theorem State.callRealRange_drive (s : State) : (s.callRealRange).2.drive = s.drive := by simp [State.callRealRange]
@[simp] theorem State.callRealRange_cbEn (s : State) : (s.callRealRange).2.cbEn = s.cbEn := by simp [State.callRealRange]
@[simp] theorem State.callRealRange_scanReady (s : State) : (s.callRealRange).2.scanReady = s.scanReady := by simp [State.callRealRange]
@[simp] theorem State.callRealRange_err (s : State) : (s.callRealRange).2.err = s.err := by simp [State.callRealRange]
@[simp] theorem State.callRealRange_frame (s : State) : (s.callRealRange).2.frame = s.frame := by simp [State.callRealRange]
@[simp] theorem State.callRealRange_bank0 (s : State) : (s.callRealRange).2.bank0 = s.bank0 := by simp [State.callRealRange]
@[simp] theorem State.callRealRange_bank1 (s : State) : (s.callRealRange).2.bank1 = s.bank1 := by simp [State.callRealRange]
@[simp] theorem State.callRealRange_boots (s : State) : (s.callRealRange).2.boots = s.boots := by simp [State.callRealRange]
@[simp] theorem State.callRealRange_trace (s : State) : (s.callRealRange).2.trace = s.trace ++ [.call (.getRealRange s.params.pwmChannel) (.number s.callRealRange.1)] := by simp [State.callRealRange]
@[simp] theorem State.callRealRange_turns (s : State) : (s.callRealRange).2.turns = s.turns := by simp [State.callRealRange]
@[simp] theorem State.callRealRange_rx (s : State) : (s.callRealRange).2.rx = s.rx := by simp [State.callRealRange]

/-! ### `callRange.2` -/

@[simp] theorem State.callRange_params (s : State) : (s.callRange).2.params = s.params := by simp [State.callRange]
@[simp] theorem State.callRange_ls (s : State) : (s.callRange).2.ls = s.ls := by simp [State.callRange]
@[simp] theorem State.callRange_phase (s : State) : (s.callRange).2.phase = s.phase := by simp [State.callRange]
@[simp] theorem State.callRange_count (s : State) : (s.callRange).2.count = s.count := by simp [State.callRange]
@[simp] theorem State.callRange_stopReq (s : State) : (s.callRange).2.stopReq = s.stopReq := by simp [State.callRange]
@[simp] theorem State.callRange_wrSel (s : State) : (s.callRange).2.wrSel = s.wrSel := by simp [State.callRange]
@[simp] theorem State.callRange_speedSum (s : State) : (s.callRange).2.speedSum = s.speedSum := by simp [State.callRange]
@[simp] theorem State.callRange_target (s : State) : (s.callRange).2.target = s.target := by simp [State.callRange]
@[simp] theorem State.callRange_pwmRange (s : State) : (s.callRange).2.pwmRange = s.pwmRange := by simp [State.callRange]
@[simp] theorem State.callRange_drive (s : State) : (s.callRange).2.drive = s.drive := by simp [State.callRange]
@[simp] theorem State.callRange_cbEn (s : State) : (s.callRange).2.cbEn = s.cbEn := by simp [State.callRange]
@[simp] theorem State.callRange_scanReady (s : State) : (s.callRange).2.scanReady = s.scanReady := by simp [State.callRange]
@[simp] theorem State.callRange_err (s : State) : (s.callRange).2.err = s.err := by simp [State.callRange]
@[simp] theorem State.callRange_frame (s : State) : (s.callRange).2.frame = s.frame := by simp [State.callRange]
@[simp] theorem State.callRange_bank0 (s : State) : (s.callRange).2.bank0 = s.bank0 := by simp [State.callRange]
@[simp] theorem State.callRange_bank1 (s : State) : (s.callRange).2.bank1 = s.bank1 := by simp [State.callRange]
@[simp] theorem State.callRange_boots (s : State) : (s.callRange).2.boots = s.boots := by simp [State.callRange]
@[simp] theorem State.callRange_trace (s : State) : (s.callRange).2.trace = s.trace ++ [.call (.getRange s.params.pwmChannel) (.numberOrFail s.callRange.1)] := by simp [State.callRange]
@[simp] theorem State.callRange_turns (s : State) : (s.callRange).2.turns = s.turns := by simp [State.callRange]
@[simp] theorem State.callRange_rx (s : State) : (s.callRange).2.rx = s.rx := by simp [State.callRange]

/-! ### `powerOnReset` -/

@[simp] theorem State.powerOnReset_params (s : State) : (s.powerOnReset).params = s.params := rfl
@[simp] theorem State.powerOnReset_ls (s : State) : (s.powerOnReset).ls = .idle := rfl
@[simp] theorem State.powerOnReset_phase (s : State) : (s.powerOnReset).phase = .idle := rfl
@[simp] theorem State.powerOnReset_count (s : State) : (s.powerOnReset).count = 0#11 := rfl
@[simp] theorem State.powerOnReset_stopReq (s : State) : (s.powerOnReset).stopReq = false := rfl
@[simp] theorem State.powerOnReset_wrSel (s : State) : (s.powerOnReset).wrSel = 0#1 := rfl
@[simp] theorem State.powerOnReset_speedSum (s : State) : (s.powerOnReset).speedSum = 0#23 := rfl
@[simp] theorem State.powerOnReset_target (s : State) : (s.powerOnReset).target = s.params.targetReset := rfl
@[simp] theorem State.powerOnReset_pwmRange (s : State) : (s.powerOnReset).pwmRange = 0#16 := rfl
@[simp] theorem State.powerOnReset_drive (s : State) : (s.powerOnReset).drive = 0#16 := rfl
@[simp] theorem State.powerOnReset_cbEn (s : State) : (s.powerOnReset).cbEn = false := rfl
@[simp] theorem State.powerOnReset_scanReady (s : State) : (s.powerOnReset).scanReady = false := rfl
@[simp] theorem State.powerOnReset_err (s : State) : (s.powerOnReset).err = .none := rfl
@[simp] theorem State.powerOnReset_frame (s : State) : (s.powerOnReset).frame = [] := rfl
@[simp] theorem State.powerOnReset_bank0 (s : State) : (s.powerOnReset).bank0 = [] := rfl
@[simp] theorem State.powerOnReset_bank1 (s : State) : (s.powerOnReset).bank1 = [] := rfl
@[simp] theorem State.powerOnReset_boots (s : State) : (s.powerOnReset).boots = s.boots + 1 := rfl
@[simp] theorem State.powerOnReset_draws (s : State) : (s.powerOnReset).draws = s.draws := rfl
@[simp] theorem State.powerOnReset_trace (s : State) : (s.powerOnReset).trace = s.trace := rfl
@[simp] theorem State.powerOnReset_turns (s : State) : (s.powerOnReset).turns = s.turns := rfl
@[simp] theorem State.powerOnReset_rx (s : State) : (s.powerOnReset).rx = s.rx := rfl
@[simp] theorem State.powerOnReset_answers (s : State) : (s.powerOnReset).answers = s.answers := rfl

/-! ### `rehunt` -/

@[simp] theorem State.rehunt_params (s : State) : (s.rehunt).params = s.params := by simp [State.rehunt]
@[simp] theorem State.rehunt_ls (s : State) : (s.rehunt).ls = s.ls := by simp [State.rehunt]
@[simp] theorem State.rehunt_phase (s : State) : (s.rehunt).phase = .hunt := by simp [State.rehunt]
@[simp] theorem State.rehunt_count (s : State) : (s.rehunt).count = 0#11 := by simp [State.rehunt]
@[simp] theorem State.rehunt_stopReq (s : State) : (s.rehunt).stopReq = s.stopReq := by simp [State.rehunt]
@[simp] theorem State.rehunt_wrSel (s : State) : (s.rehunt).wrSel = s.wrSel := by simp [State.rehunt]
@[simp] theorem State.rehunt_speedSum (s : State) : (s.rehunt).speedSum = s.speedSum := by simp [State.rehunt]
@[simp] theorem State.rehunt_target (s : State) : (s.rehunt).target = s.target := by simp [State.rehunt]
@[simp] theorem State.rehunt_pwmRange (s : State) : (s.rehunt).pwmRange = s.pwmRange := by simp [State.rehunt]
@[simp] theorem State.rehunt_drive (s : State) : (s.rehunt).drive = s.drive := by simp [State.rehunt]
@[simp] theorem State.rehunt_cbEn (s : State) : (s.rehunt).cbEn = s.cbEn := by simp [State.rehunt]
@[simp] theorem State.rehunt_scanReady (s : State) : (s.rehunt).scanReady = s.scanReady := by simp [State.rehunt]
@[simp] theorem State.rehunt_err (s : State) : (s.rehunt).err = s.err := by simp [State.rehunt]
@[simp] theorem State.rehunt_frame (s : State) : (s.rehunt).frame = s.frame := by simp [State.rehunt]
@[simp] theorem State.rehunt_bank0 (s : State) : (s.rehunt).bank0 = s.bank0 := by simp [State.rehunt]
@[simp] theorem State.rehunt_bank1 (s : State) : (s.rehunt).bank1 = s.bank1 := by simp [State.rehunt]
@[simp] theorem State.rehunt_boots (s : State) : (s.rehunt).boots = s.boots := by simp [State.rehunt]
@[simp] theorem State.rehunt_draws (s : State) : (s.rehunt).draws = s.draws := by simp [State.rehunt]
@[simp] theorem State.rehunt_trace (s : State) : (s.rehunt).trace = s.trace ++ [.call (.transportRead 1) .nothing] := by simp [State.rehunt]
@[simp] theorem State.rehunt_turns (s : State) : (s.rehunt).turns = s.turns := by simp [State.rehunt]
@[simp] theorem State.rehunt_rx (s : State) : (s.rehunt).rx = s.rx := by simp [State.rehunt]
@[simp] theorem State.rehunt_answers (s : State) : (s.rehunt).answers = s.answers := by simp [State.rehunt]

/-! ### `candidate` -/

@[simp] theorem State.candidate_params (s : State) (d : Byte) : (s.candidate d).params = s.params := by simp [State.candidate]
@[simp] theorem State.candidate_ls (s : State) (d : Byte) : (s.candidate d).ls = s.ls := by simp [State.candidate]
@[simp] theorem State.candidate_phase (s : State) (d : Byte) : (s.candidate d).phase = .hdr1 := by simp [State.candidate]
@[simp] theorem State.candidate_count (s : State) (d : Byte) : (s.candidate d).count = 1#11 := by simp [State.candidate]
@[simp] theorem State.candidate_stopReq (s : State) (d : Byte) : (s.candidate d).stopReq = s.stopReq := by simp [State.candidate]
@[simp] theorem State.candidate_wrSel (s : State) (d : Byte) : (s.candidate d).wrSel = s.wrSel := by simp [State.candidate]
@[simp] theorem State.candidate_speedSum (s : State) (d : Byte) : (s.candidate d).speedSum = s.speedSum := by simp [State.candidate]
@[simp] theorem State.candidate_target (s : State) (d : Byte) : (s.candidate d).target = s.target := by simp [State.candidate]
@[simp] theorem State.candidate_pwmRange (s : State) (d : Byte) : (s.candidate d).pwmRange = s.pwmRange := by simp [State.candidate]
@[simp] theorem State.candidate_drive (s : State) (d : Byte) : (s.candidate d).drive = s.drive := by simp [State.candidate]
@[simp] theorem State.candidate_cbEn (s : State) (d : Byte) : (s.candidate d).cbEn = s.cbEn := by simp [State.candidate]
@[simp] theorem State.candidate_scanReady (s : State) (d : Byte) : (s.candidate d).scanReady = s.scanReady := by simp [State.candidate]
@[simp] theorem State.candidate_err (s : State) (d : Byte) : (s.candidate d).err = s.err := by simp [State.candidate]
@[simp] theorem State.candidate_frame (s : State) (d : Byte) : (s.candidate d).frame = Memory.write s.frame 0 d := by simp [State.candidate]
@[simp] theorem State.candidate_bank0 (s : State) (d : Byte) : (s.candidate d).bank0 = s.bank0 := by simp [State.candidate]
@[simp] theorem State.candidate_bank1 (s : State) (d : Byte) : (s.candidate d).bank1 = s.bank1 := by simp [State.candidate]
@[simp] theorem State.candidate_boots (s : State) (d : Byte) : (s.candidate d).boots = s.boots := by simp [State.candidate]
@[simp] theorem State.candidate_draws (s : State) (d : Byte) : (s.candidate d).draws = s.draws := by simp [State.candidate]
@[simp] theorem State.candidate_trace (s : State) (d : Byte) : (s.candidate d).trace = s.trace ++ [.call (.transportRead 1) .nothing] := by simp [State.candidate]
@[simp] theorem State.candidate_turns (s : State) (d : Byte) : (s.candidate d).turns = s.turns := by simp [State.candidate]
@[simp] theorem State.candidate_rx (s : State) (d : Byte) : (s.candidate d).rx = s.rx := by simp [State.candidate]
@[simp] theorem State.candidate_answers (s : State) (d : Byte) : (s.candidate d).answers = s.answers := by simp [State.candidate]

/-! ### `headerMatched` -/

@[simp] theorem State.headerMatched_params (s : State) (d : Byte) : (s.headerMatched d).params = s.params := by simp [State.headerMatched]
@[simp] theorem State.headerMatched_ls (s : State) (d : Byte) : (s.headerMatched d).ls = s.ls := by simp [State.headerMatched]
@[simp] theorem State.headerMatched_phase (s : State) (d : Byte) : (s.headerMatched d).phase = .payload := by simp [State.headerMatched]
@[simp] theorem State.headerMatched_count (s : State) (d : Byte) : (s.headerMatched d).count = 2#11 := by simp [State.headerMatched]
@[simp] theorem State.headerMatched_stopReq (s : State) (d : Byte) : (s.headerMatched d).stopReq = s.stopReq := by simp [State.headerMatched]
@[simp] theorem State.headerMatched_wrSel (s : State) (d : Byte) : (s.headerMatched d).wrSel = s.wrSel := by simp [State.headerMatched]
@[simp] theorem State.headerMatched_speedSum (s : State) (d : Byte) : (s.headerMatched d).speedSum = s.speedSum := by simp [State.headerMatched]
@[simp] theorem State.headerMatched_target (s : State) (d : Byte) : (s.headerMatched d).target = s.target := by simp [State.headerMatched]
@[simp] theorem State.headerMatched_pwmRange (s : State) (d : Byte) : (s.headerMatched d).pwmRange = s.pwmRange := by simp [State.headerMatched]
@[simp] theorem State.headerMatched_drive (s : State) (d : Byte) : (s.headerMatched d).drive = s.drive := by simp [State.headerMatched]
@[simp] theorem State.headerMatched_cbEn (s : State) (d : Byte) : (s.headerMatched d).cbEn = s.cbEn := by simp [State.headerMatched]
@[simp] theorem State.headerMatched_scanReady (s : State) (d : Byte) : (s.headerMatched d).scanReady = s.scanReady := by simp [State.headerMatched]
@[simp] theorem State.headerMatched_err (s : State) (d : Byte) : (s.headerMatched d).err = s.err := by simp [State.headerMatched]
@[simp] theorem State.headerMatched_frame (s : State) (d : Byte) : (s.headerMatched d).frame = Memory.write s.frame 1 d := by simp [State.headerMatched]
@[simp] theorem State.headerMatched_bank0 (s : State) (d : Byte) : (s.headerMatched d).bank0 = s.bank0 := by simp [State.headerMatched]
@[simp] theorem State.headerMatched_bank1 (s : State) (d : Byte) : (s.headerMatched d).bank1 = s.bank1 := by simp [State.headerMatched]
@[simp] theorem State.headerMatched_boots (s : State) (d : Byte) : (s.headerMatched d).boots = s.boots := by simp [State.headerMatched]
@[simp] theorem State.headerMatched_draws (s : State) (d : Byte) : (s.headerMatched d).draws = s.draws := by simp [State.headerMatched]
@[simp] theorem State.headerMatched_trace (s : State) (d : Byte) : (s.headerMatched d).trace = s.trace ++ [.call (.transportRead 1978) .nothing] := by simp [State.headerMatched, Config.frameSize]
@[simp] theorem State.headerMatched_turns (s : State) (d : Byte) : (s.headerMatched d).turns = s.turns := by simp [State.headerMatched]
@[simp] theorem State.headerMatched_rx (s : State) (d : Byte) : (s.headerMatched d).rx = s.rx := by simp [State.headerMatched]
@[simp] theorem State.headerMatched_answers (s : State) (d : Byte) : (s.headerMatched d).answers = s.answers := by simp [State.headerMatched]

/-! ### `payloadByte` -/

@[simp] theorem State.payloadByte_params (s : State) (d : Byte) : (s.payloadByte d).params = s.params := by
  simp [State.payloadByte, Config.frameSize, apply_ite State.params]
@[simp] theorem State.payloadByte_ls (s : State) (d : Byte) : (s.payloadByte d).ls = s.ls := by
  simp [State.payloadByte, Config.frameSize, apply_ite State.ls]
@[simp] theorem State.payloadByte_phase (s : State) (d : Byte) : (s.payloadByte d).phase = if (s.count + 1#11).toNat = 1980 then .validate else s.phase := by
  simp [State.payloadByte, Config.frameSize, apply_ite State.phase]
@[simp] theorem State.payloadByte_count (s : State) (d : Byte) : (s.payloadByte d).count = s.count + 1#11 := by
  simp [State.payloadByte, Config.frameSize, apply_ite State.count]
@[simp] theorem State.payloadByte_stopReq (s : State) (d : Byte) : (s.payloadByte d).stopReq = s.stopReq := by
  simp [State.payloadByte, Config.frameSize, apply_ite State.stopReq]
@[simp] theorem State.payloadByte_wrSel (s : State) (d : Byte) : (s.payloadByte d).wrSel = s.wrSel := by
  simp [State.payloadByte, Config.frameSize, apply_ite State.wrSel]
@[simp] theorem State.payloadByte_speedSum (s : State) (d : Byte) : (s.payloadByte d).speedSum = s.speedSum := by
  simp [State.payloadByte, Config.frameSize, apply_ite State.speedSum]
@[simp] theorem State.payloadByte_target (s : State) (d : Byte) : (s.payloadByte d).target = s.target := by
  simp [State.payloadByte, Config.frameSize, apply_ite State.target]
@[simp] theorem State.payloadByte_pwmRange (s : State) (d : Byte) : (s.payloadByte d).pwmRange = s.pwmRange := by
  simp [State.payloadByte, Config.frameSize, apply_ite State.pwmRange]
@[simp] theorem State.payloadByte_drive (s : State) (d : Byte) : (s.payloadByte d).drive = s.drive := by
  simp [State.payloadByte, Config.frameSize, apply_ite State.drive]
@[simp] theorem State.payloadByte_cbEn (s : State) (d : Byte) : (s.payloadByte d).cbEn = s.cbEn := by
  simp [State.payloadByte, Config.frameSize, apply_ite State.cbEn]
@[simp] theorem State.payloadByte_scanReady (s : State) (d : Byte) : (s.payloadByte d).scanReady = s.scanReady := by
  simp [State.payloadByte, Config.frameSize, apply_ite State.scanReady]
@[simp] theorem State.payloadByte_err (s : State) (d : Byte) : (s.payloadByte d).err = s.err := by
  simp [State.payloadByte, Config.frameSize, apply_ite State.err]
@[simp] theorem State.payloadByte_frame (s : State) (d : Byte) : (s.payloadByte d).frame = Memory.write s.frame s.count.toNat d := by
  simp [State.payloadByte, Config.frameSize, apply_ite State.frame]
@[simp] theorem State.payloadByte_bank0 (s : State) (d : Byte) : (s.payloadByte d).bank0 = s.bank0 := by
  simp [State.payloadByte, Config.frameSize, apply_ite State.bank0]
@[simp] theorem State.payloadByte_bank1 (s : State) (d : Byte) : (s.payloadByte d).bank1 = s.bank1 := by
  simp [State.payloadByte, Config.frameSize, apply_ite State.bank1]
@[simp] theorem State.payloadByte_boots (s : State) (d : Byte) : (s.payloadByte d).boots = s.boots := by
  simp [State.payloadByte, Config.frameSize, apply_ite State.boots]
@[simp] theorem State.payloadByte_draws (s : State) (d : Byte) : (s.payloadByte d).draws = s.draws := by
  simp [State.payloadByte, Config.frameSize, apply_ite State.draws]
@[simp] theorem State.payloadByte_trace (s : State) (d : Byte) : (s.payloadByte d).trace = s.trace := by
  simp [State.payloadByte, Config.frameSize, apply_ite State.trace]
@[simp] theorem State.payloadByte_turns (s : State) (d : Byte) : (s.payloadByte d).turns = s.turns := by
  simp [State.payloadByte, Config.frameSize, apply_ite State.turns]
@[simp] theorem State.payloadByte_rx (s : State) (d : Byte) : (s.payloadByte d).rx = s.rx := by
  simp [State.payloadByte, Config.frameSize, apply_ite State.rx]
@[simp] theorem State.payloadByte_answers (s : State) (d : Byte) : (s.payloadByte d).answers = s.answers := by
  simp [State.payloadByte, Config.frameSize, apply_ite State.answers]

/-! ### `releaseAll` -/

@[simp] theorem State.releaseAll_params (s : State) : (s.releaseAll).params = s.params := by simp [State.releaseAll]
@[simp] theorem State.releaseAll_ls (s : State) : (s.releaseAll).ls = s.ls := by simp [State.releaseAll]
@[simp] theorem State.releaseAll_phase (s : State) : (s.releaseAll).phase = s.phase := by simp [State.releaseAll]
@[simp] theorem State.releaseAll_count (s : State) : (s.releaseAll).count = s.count := by simp [State.releaseAll]
@[simp] theorem State.releaseAll_stopReq (s : State) : (s.releaseAll).stopReq = s.stopReq := by simp [State.releaseAll]
@[simp] theorem State.releaseAll_wrSel (s : State) : (s.releaseAll).wrSel = s.wrSel := by simp [State.releaseAll]
@[simp] theorem State.releaseAll_speedSum (s : State) : (s.releaseAll).speedSum = s.speedSum := by simp [State.releaseAll]
@[simp] theorem State.releaseAll_target (s : State) : (s.releaseAll).target = s.target := by simp [State.releaseAll]
@[simp] theorem State.releaseAll_pwmRange (s : State) : (s.releaseAll).pwmRange = s.pwmRange := by simp [State.releaseAll]
@[simp] theorem State.releaseAll_drive (s : State) : (s.releaseAll).drive = s.drive := by simp [State.releaseAll]
@[simp] theorem State.releaseAll_cbEn (s : State) : (s.releaseAll).cbEn = s.cbEn := by simp [State.releaseAll]
@[simp] theorem State.releaseAll_scanReady (s : State) : (s.releaseAll).scanReady = s.scanReady := by simp [State.releaseAll]
@[simp] theorem State.releaseAll_err (s : State) : (s.releaseAll).err = s.err := by simp [State.releaseAll]
@[simp] theorem State.releaseAll_frame (s : State) : (s.releaseAll).frame = s.frame := by simp [State.releaseAll]
@[simp] theorem State.releaseAll_bank0 (s : State) : (s.releaseAll).bank0 = s.bank0 := by simp [State.releaseAll]
@[simp] theorem State.releaseAll_bank1 (s : State) : (s.releaseAll).bank1 = s.bank1 := by simp [State.releaseAll]
@[simp] theorem State.releaseAll_boots (s : State) : (s.releaseAll).boots = s.boots := by simp [State.releaseAll]
@[simp] theorem State.releaseAll_draws (s : State) : (s.releaseAll).draws = s.draws := by simp [State.releaseAll]
@[simp] theorem State.releaseAll_trace (s : State) : (s.releaseAll).trace = s.trace ++ [.call (.setMode s.params.pwmChannel .input) .nothing, .call .gpioTerminate .nothing,
      .call .transportClose .nothing] := by simp [State.releaseAll]
@[simp] theorem State.releaseAll_turns (s : State) : (s.releaseAll).turns = s.turns := by simp [State.releaseAll]
@[simp] theorem State.releaseAll_rx (s : State) : (s.releaseAll).rx = s.rx := by simp [State.releaseAll]
@[simp] theorem State.releaseAll_answers (s : State) : (s.releaseAll).answers = s.answers := by simp [State.releaseAll]

/-! ### `fatalStart` -/

@[simp] theorem State.fatalStart_params (s : State) (e : ErrCode) : (s.fatalStart e).params = s.params := by simp [State.fatalStart]
@[simp] theorem State.fatalStart_ls (s : State) (e : ErrCode) : (s.fatalStart e).ls = .idle := by simp [State.fatalStart]
@[simp] theorem State.fatalStart_phase (s : State) (e : ErrCode) : (s.fatalStart e).phase = s.phase := by simp [State.fatalStart]
@[simp] theorem State.fatalStart_count (s : State) (e : ErrCode) : (s.fatalStart e).count = s.count := by simp [State.fatalStart]
@[simp] theorem State.fatalStart_stopReq (s : State) (e : ErrCode) : (s.fatalStart e).stopReq = s.stopReq := by simp [State.fatalStart]
@[simp] theorem State.fatalStart_wrSel (s : State) (e : ErrCode) : (s.fatalStart e).wrSel = s.wrSel := by simp [State.fatalStart]
@[simp] theorem State.fatalStart_speedSum (s : State) (e : ErrCode) : (s.fatalStart e).speedSum = s.speedSum := by simp [State.fatalStart]
@[simp] theorem State.fatalStart_target (s : State) (e : ErrCode) : (s.fatalStart e).target = s.target := by simp [State.fatalStart]
@[simp] theorem State.fatalStart_pwmRange (s : State) (e : ErrCode) : (s.fatalStart e).pwmRange = s.pwmRange := by simp [State.fatalStart]
@[simp] theorem State.fatalStart_drive (s : State) (e : ErrCode) : (s.fatalStart e).drive = s.drive := by simp [State.fatalStart]
@[simp] theorem State.fatalStart_cbEn (s : State) (e : ErrCode) : (s.fatalStart e).cbEn = s.cbEn := by simp [State.fatalStart]
@[simp] theorem State.fatalStart_scanReady (s : State) (e : ErrCode) : (s.fatalStart e).scanReady = s.scanReady := by simp [State.fatalStart]
@[simp] theorem State.fatalStart_err (s : State) (e : ErrCode) : (s.fatalStart e).err = e := by simp [State.fatalStart]
@[simp] theorem State.fatalStart_frame (s : State) (e : ErrCode) : (s.fatalStart e).frame = s.frame := by simp [State.fatalStart]
@[simp] theorem State.fatalStart_bank0 (s : State) (e : ErrCode) : (s.fatalStart e).bank0 = s.bank0 := by simp [State.fatalStart]
@[simp] theorem State.fatalStart_bank1 (s : State) (e : ErrCode) : (s.fatalStart e).bank1 = s.bank1 := by simp [State.fatalStart]
@[simp] theorem State.fatalStart_boots (s : State) (e : ErrCode) : (s.fatalStart e).boots = s.boots := by simp [State.fatalStart]
@[simp] theorem State.fatalStart_draws (s : State) (e : ErrCode) : (s.fatalStart e).draws = s.draws := by simp [State.fatalStart]
@[simp] theorem State.fatalStart_trace (s : State) (e : ErrCode) : (s.fatalStart e).trace = s.trace ++ [.response 2#32 [zext32 e.code]] := by simp [State.fatalStart]
@[simp] theorem State.fatalStart_turns (s : State) (e : ErrCode) : (s.fatalStart e).turns = s.turns := by simp [State.fatalStart]
@[simp] theorem State.fatalStart_rx (s : State) (e : ErrCode) : (s.fatalStart e).rx = s.rx := by simp [State.fatalStart]
@[simp] theorem State.fatalStart_answers (s : State) (e : ErrCode) : (s.fatalStart e).answers = s.answers := by simp [State.fatalStart]

/-! ### `beginRun` -/

@[simp] theorem State.beginRun_params (s : State) (g : Nat) : (s.beginRun g).params = s.params := by simp [State.beginRun]
@[simp] theorem State.beginRun_ls (s : State) (g : Nat) : (s.beginRun g).ls = .running := by simp [State.beginRun]
@[simp] theorem State.beginRun_phase (s : State) (g : Nat) : (s.beginRun g).phase = .top := by simp [State.beginRun]
@[simp] theorem State.beginRun_count (s : State) (g : Nat) : (s.beginRun g).count = 0#11 := by simp [State.beginRun]
@[simp] theorem State.beginRun_stopReq (s : State) (g : Nat) : (s.beginRun g).stopReq = false := by simp [State.beginRun]
@[simp] theorem State.beginRun_wrSel (s : State) (g : Nat) : (s.beginRun g).wrSel = 0#1 := by simp [State.beginRun]
@[simp] theorem State.beginRun_speedSum (s : State) (g : Nat) : (s.beginRun g).speedSum = 0#23 := by simp [State.beginRun]
@[simp] theorem State.beginRun_target (s : State) (g : Nat) : (s.beginRun g).target = s.target := by simp [State.beginRun]
@[simp] theorem State.beginRun_pwmRange (s : State) (g : Nat) : (s.beginRun g).pwmRange = BitVec.ofNat 16 g := by simp [State.beginRun]
@[simp] theorem State.beginRun_drive (s : State) (g : Nat) : (s.beginRun g).drive = BitVec.ofNat 16 (presetDrive g) := by simp [State.beginRun]
@[simp] theorem State.beginRun_cbEn (s : State) (g : Nat) : (s.beginRun g).cbEn = s.cbEn := by simp [State.beginRun]
@[simp] theorem State.beginRun_scanReady (s : State) (g : Nat) : (s.beginRun g).scanReady = false := by simp [State.beginRun]
@[simp] theorem State.beginRun_err (s : State) (g : Nat) : (s.beginRun g).err = s.err := by simp [State.beginRun]
@[simp] theorem State.beginRun_frame (s : State) (g : Nat) : (s.beginRun g).frame = s.frame := by simp [State.beginRun]
@[simp] theorem State.beginRun_bank0 (s : State) (g : Nat) : (s.beginRun g).bank0 = invalidated s.bank0 := by simp [State.beginRun]
@[simp] theorem State.beginRun_bank1 (s : State) (g : Nat) : (s.beginRun g).bank1 = invalidated s.bank1 := by simp [State.beginRun]
@[simp] theorem State.beginRun_boots (s : State) (g : Nat) : (s.beginRun g).boots = s.boots := by simp [State.beginRun]
@[simp] theorem State.beginRun_draws (s : State) (g : Nat) : (s.beginRun g).draws = s.draws := by simp [State.beginRun]
@[simp] theorem State.beginRun_trace (s : State) (g : Nat) : (s.beginRun g).trace = s.trace ++ [.call (.writeDuty s.params.pwmChannel (BitVec.ofNat 16 (presetDrive g))) .nothing,
      .response 0#32 [0#32]] := by simp [State.beginRun]
@[simp] theorem State.beginRun_turns (s : State) (g : Nat) : (s.beginRun g).turns = s.turns := by simp [State.beginRun]
@[simp] theorem State.beginRun_rx (s : State) (g : Nat) : (s.beginRun g).rx = s.rx := by simp [State.beginRun]
@[simp] theorem State.beginRun_answers (s : State) (g : Nat) : (s.beginRun g).answers = s.answers := by simp [State.beginRun]

/-! ### `setUpPwm.2` -/

@[simp] theorem State.setUpPwm_params (s : State) : (s.setUpPwm).2.params = s.params := by
  simp [State.setUpPwm, apply_ite State.params]
@[simp] theorem State.setUpPwm_ls (s : State) : (s.setUpPwm).2.ls = s.ls := by
  simp [State.setUpPwm, apply_ite State.ls]
@[simp] theorem State.setUpPwm_phase (s : State) : (s.setUpPwm).2.phase = s.phase := by
  simp [State.setUpPwm, apply_ite State.phase]
@[simp] theorem State.setUpPwm_count (s : State) : (s.setUpPwm).2.count = s.count := by
  simp [State.setUpPwm, apply_ite State.count]
@[simp] theorem State.setUpPwm_stopReq (s : State) : (s.setUpPwm).2.stopReq = s.stopReq := by
  simp [State.setUpPwm, apply_ite State.stopReq]
@[simp] theorem State.setUpPwm_wrSel (s : State) : (s.setUpPwm).2.wrSel = s.wrSel := by
  simp [State.setUpPwm, apply_ite State.wrSel]
@[simp] theorem State.setUpPwm_speedSum (s : State) : (s.setUpPwm).2.speedSum = s.speedSum := by
  simp [State.setUpPwm, apply_ite State.speedSum]
@[simp] theorem State.setUpPwm_target (s : State) : (s.setUpPwm).2.target = s.target := by
  simp [State.setUpPwm, apply_ite State.target]
@[simp] theorem State.setUpPwm_pwmRange (s : State) : (s.setUpPwm).2.pwmRange = s.pwmRange := by
  simp [State.setUpPwm, apply_ite State.pwmRange]
@[simp] theorem State.setUpPwm_drive (s : State) : (s.setUpPwm).2.drive = s.drive := by
  simp [State.setUpPwm, apply_ite State.drive]
@[simp] theorem State.setUpPwm_cbEn (s : State) : (s.setUpPwm).2.cbEn = s.cbEn := by
  simp [State.setUpPwm, apply_ite State.cbEn]
@[simp] theorem State.setUpPwm_scanReady (s : State) : (s.setUpPwm).2.scanReady = s.scanReady := by
  simp [State.setUpPwm, apply_ite State.scanReady]
@[simp] theorem State.setUpPwm_err (s : State) : (s.setUpPwm).2.err = s.err := by
  simp [State.setUpPwm, apply_ite State.err]
@[simp] theorem State.setUpPwm_frame (s : State) : (s.setUpPwm).2.frame = s.frame := by
  simp [State.setUpPwm, apply_ite State.frame]
@[simp] theorem State.setUpPwm_bank0 (s : State) : (s.setUpPwm).2.bank0 = s.bank0 := by
  simp [State.setUpPwm, apply_ite State.bank0]
@[simp] theorem State.setUpPwm_bank1 (s : State) : (s.setUpPwm).2.bank1 = s.bank1 := by
  simp [State.setUpPwm, apply_ite State.bank1]
@[simp] theorem State.setUpPwm_boots (s : State) : (s.setUpPwm).2.boots = s.boots := by
  simp [State.setUpPwm, apply_ite State.boots]
@[simp] theorem State.setUpPwm_turns (s : State) : (s.setUpPwm).2.turns = s.turns := by
  simp [State.setUpPwm, apply_ite State.turns]
@[simp] theorem State.setUpPwm_rx (s : State) : (s.setUpPwm).2.rx = s.rx := by
  simp [State.setUpPwm, apply_ite State.rx]

end Sys2Proof.Machine
end

