-- ==== Sys2Proof/Laws/Storage.lean ====
section
/-! SUPPORT. The laws of the two RAMs: reading after a write, and the canonical form, which every operation keeps. -/

namespace Sys2Proof.Machine

/-! ### Pairs of key and value -/

@[simp] theorem cellsGet_cellsPut_same {α : Type} (m : List (Nat × α)) (a : Nat) (v : α) :
    cellsGet (cellsPut m a v) a = some v := by
  induction m with
  | nil => simp [cellsPut, cellsGet]
  | cons c rest ih =>
    obtain ⟨k, w⟩ := c
    simp only [cellsPut]
    split
    · simp [cellsGet]
    · split
      · simp [cellsGet]
      · rename_i h; simp [cellsGet, h, ih]

theorem cellsGet_cellsPut_other {α : Type} (m : List (Nat × α)) {a b : Nat} (v : α) (h : b ≠ a) :
    cellsGet (cellsPut m a v) b = cellsGet m b := by
  induction m with
  | nil => simp [cellsPut, cellsGet, h.symm]
  | cons c rest ih =>
    obtain ⟨k, w⟩ := c
    simp only [cellsPut]
    split
    · simp [cellsGet, h.symm]
    · split
      · rename_i h2; subst h2; simp [cellsGet, h.symm]
      · simp [cellsGet, ih]

/-- A sorted list's keys all lie above its first key. -/
theorem cellsSorted_head_lt {α : Type} (k : Nat) (w : α) (rest : List (Nat × α))
    (h : cellsSorted ((k, w) :: rest) = true) : ∀ c ∈ rest, k < c.1 := by
  induction rest generalizing k w with
  | nil => simp
  | cons d rest ih =>
    obtain ⟨k2, w2⟩ := d
    simp only [cellsSorted, Bool.and_eq_true, decide_eq_true_eq] at h
    intro c hc
    rcases List.mem_cons.mp hc with rfl | hc
    · exact h.1
    · exact h.1.trans (ih k2 w2 h.2 c hc)

/-- A list sorts below a key that is less than all of its keys. -/
theorem cellsSorted_cons {α : Type} (k : Nat) (w : α) (rest : List (Nat × α))
    (hr : cellsSorted rest = true) (h : ∀ c ∈ rest, k < c.1) :
    cellsSorted ((k, w) :: rest) = true := by
  cases rest with
  | nil => rfl
  | cons d rest =>
    obtain ⟨k2, w2⟩ := d
    simp [cellsSorted, hr, h (k2, w2) (by simp)]

theorem cellsSorted_tail {α : Type} (c : Nat × α) (rest : List (Nat × α))
    (h : cellsSorted (c :: rest) = true) : cellsSorted rest = true := by
  cases rest with
  | nil => rfl
  | cons d rest => simp only [cellsSorted, Bool.and_eq_true] at h; exact h.2

/-- What a list with one more value holds was there before, or is that value. -/
theorem mem_cellsPut {α : Type} (m : List (Nat × α)) (a : Nat) (v : α) (c : Nat × α)
    (h : c ∈ cellsPut m a v) : c = (a, v) ∨ c ∈ m := by
  induction m with
  | nil => exact .inl (by simpa [cellsPut] using h)
  | cons d rest ih =>
    obtain ⟨k, w⟩ := d
    simp only [cellsPut] at h
    split at h
    · simpa using h
    · split at h
      · rcases List.mem_cons.mp h with h | h
        · exact .inl h
        · exact .inr (List.mem_cons_of_mem _ h)
      · rcases List.mem_cons.mp h with h | h
        · exact .inr (h ▸ List.mem_cons_self)
        · exact (ih h).imp_right (List.mem_cons_of_mem _)

theorem cellsSorted_cellsPut {α : Type} (m : List (Nat × α)) (a : Nat) (v : α)
    (h : cellsSorted m = true) : cellsSorted (cellsPut m a v) = true := by
  induction m with
  | nil => rfl
  | cons d rest ih =>
    obtain ⟨k, w⟩ := d
    have hlt := cellsSorted_head_lt k w rest h
    simp only [cellsPut]
    split
    · rename_i hak
      refine cellsSorted_cons _ _ _ h fun c hc => ?_
      rcases List.mem_cons.mp hc with rfl | hc
      · exact hak
      · exact hak.trans (hlt c hc)
    · split
      · rename_i hka; subst hka
        exact cellsSorted_cons _ _ _ (cellsSorted_tail _ _ h) hlt
      · rename_i h1 h2
        refine cellsSorted_cons _ _ _ (ih (cellsSorted_tail _ _ h)) fun c hc => ?_
        rcases mem_cellsPut rest a v c hc with rfl | hc
        · simp only; omega
        · exact hlt c hc

theorem all_cellsPut {α : Type} (m : List (Nat × α)) (a : Nat) (v : α) (p : Nat × α → Bool)
    (h : m.all p = true) (hv : p (a, v) = true) : (cellsPut m a v).all p = true := by
  rw [List.all_eq_true] at h ⊢
  intro c hc
  rcases mem_cellsPut m a v c hc with rfl | hc
  · exact hv
  · exact h c hc

/-! ### The frame RAM -/

@[simp] theorem Memory.read_write_same (m : Memory) (i : Nat) (b : Byte) :
    Memory.read (Memory.write m i b) i = some b := cellsGet_cellsPut_same m i b

theorem Memory.read_write_other (m : Memory) {i j : Nat} (b : Byte) (h : j ≠ i) :
    Memory.read (Memory.write m i b) j = Memory.read m j := cellsGet_cellsPut_other m b h

/-- A write at a frame offset keeps the canonical form. -/
theorem Memory.wf_write (m : Memory) (i : Nat) (b : Byte) (h : Memory.wf m = true)
    (hi : i < Config.frameSize) : Memory.wf (Memory.write m i b) = true := by
  simp only [Memory.wf, Bool.and_eq_true] at h ⊢
  exact ⟨cellsSorted_cellsPut m i b h.1, all_cellsPut m i b _ h.2 (by simpa using hi)⟩

/-- The frame RAM right after reset has the canonical form. -/
theorem Memory.wf_reset : Memory.wf State.reset.frame = true := rfl

@[simp] theorem State.frameByte_putFrame_same (s : State) (i : Nat) (b : Byte) :
    (s.putFrame i b).frameByte i = b := by simp [State.frameByte]

theorem State.frameByte_putFrame_other (s : State) {i j : Nat} (b : Byte) (h : j ≠ i) :
    (s.putFrame i b).frameByte j = s.frameByte j := by
  simp [State.frameByte, Memory.read_write_other _ b h]

/-- A frame byte depends on the frame RAM and on the reset count alone. -/
theorem State.frameByte_congr (s t : State) (hf : t.frame = s.frame) (hb : t.boots = s.boots)
    (i : Nat) : t.frameByte i = s.frameByte i := by simp [State.frameByte, hf, hb]

/-! ### The scan RAM -/

@[simp] theorem Bank.cell_put_same (b : Bank) (j : Nat) (c : ScanCell) :
    Bank.cell (Bank.put b j c) j = c := by simp [Bank.cell, Bank.put]

theorem Bank.cell_put_other (b : Bank) {i j : Nat} (c : ScanCell) (h : j ≠ i) :
    Bank.cell (Bank.put b i c) j = Bank.cell b j := by
  simp [Bank.cell, Bank.put, cellsGet_cellsPut_other b c h]

@[simp] theorem Bank.cell_nil (j : Nat) : Bank.cell [] j = unwrittenCell := rfl

/-- A write of an entry that holds something, at a scan index, keeps the canonical form. -/
theorem Bank.wf_put (b : Bank) (j : Nat) (c : ScanCell) (h : Bank.wf b = true)
    (hj : j < Config.npoints) (hc : c ≠ unwrittenCell) : Bank.wf (Bank.put b j c) = true := by
  simp only [Bank.wf, Bool.and_eq_true] at h ⊢
  exact ⟨cellsSorted_cellsPut b j c h.1, all_cellsPut b j c _ h.2 (by simp [hj, hc])⟩

/-- A loop that writes every entry below `n` from what the entry held. -/
theorem cell_foldl_put (g : Bank → Nat → Bank) (f : Nat → ScanCell → ScanCell)
    (hg : ∀ b j, g b j = Bank.put b j (f j (Bank.cell b j))) (b : Bank) (n j : Nat) :
    Bank.cell ((List.range n).foldl g b) j
      = if j < n then f j (Bank.cell b j) else Bank.cell b j := by
  induction n with
  | zero => simp
  | succ n ih =>
    rw [List.range_succ, List.foldl_append]
    simp only [List.foldl_cons, List.foldl_nil, hg]
    by_cases h : j = n
    · subst h; simp [ih]
    · rw [Bank.cell_put_other _ _ h, ih]
      have : j < n + 1 ↔ j < n := by omega
      simp [this]

/-- Such a loop keeps the canonical form. -/
theorem wf_foldl_put (g : Bank → Nat → Bank) (f : Nat → ScanCell → ScanCell)
    (hg : ∀ b j, g b j = Bank.put b j (f j (Bank.cell b j))) (b : Bank) (n : Nat)
    (hn : n ≤ Config.npoints) (hf : ∀ j c, f j c ≠ unwrittenCell) (h : Bank.wf b = true) :
    Bank.wf ((List.range n).foldl g b) = true := by
  induction n with
  | zero => simpa using h
  | succ n ih =>
    rw [List.range_succ, List.foldl_append]
    simp only [List.foldl_cons, List.foldl_nil, hg]
    exact Bank.wf_put _ _ _ (ih (by omega)) (by omega) (hf _ _)

/-- START clears `VALID` in every entry of a bank and nothing else (R210). -/
theorem cell_invalidated (b : Bank) (j : Nat) :
    Bank.cell (invalidated b) j =
      if j < Config.npoints then { Bank.cell b j with valid := some false } else Bank.cell b j := by
  unfold invalidated
  exact cell_foldl_put invalidatePoint (fun _ c => { c with valid := some false }) (fun _ _ => rfl) b
    Config.npoints j

theorem wf_invalidated (b : Bank) (h : Bank.wf b = true) : Bank.wf (invalidated b) = true := by
  unfold invalidated
  exact wf_foldl_put invalidatePoint (fun _ c => { c with valid := some false }) (fun _ _ => rfl) b
    Config.npoints le_rfl
    (fun _ _ hc => by simp [unwrittenCell] at hc) h

/-- DECODE writes every entry of a bank from what the entry held (R141, R147). -/
theorem cell_decodedBank (s : State) (b : Bank) (j : Nat) :
    Bank.cell (s.decodedBank b) j =
      if j < Config.npoints then s.decodedCell j (Bank.cell b j) else Bank.cell b j := by
  unfold State.decodedBank
  exact cell_foldl_put s.decodePoint s.decodedCell (fun _ _ => rfl) b Config.npoints j

theorem decodedCell_valid (s : State) (j : Nat) (c : ScanCell) :
    (s.decodedCell j c).valid = some !(s.skipped (packetOf j) (chunkOf j)) := by
  simp only [State.decodedCell]
  split <;> simp_all

theorem wf_decodedBank (s : State) (b : Bank) (h : Bank.wf b = true) :
    Bank.wf (s.decodedBank b) = true := by
  unfold State.decodedBank
  refine wf_foldl_put s.decodePoint s.decodedCell (fun _ _ => rfl) b Config.npoints le_rfl (fun j c hc => ?_) h
  have hv := decodedCell_valid s j c
  rw [hc] at hv
  simp [unwrittenCell] at hv

@[simp] theorem State.bank_putBank_same (s : State) (k : BankNo) (b : Bank) :
    (s.putBank k b).bank k = b := by
  by_cases h : k = 0#1 <;> simp [State.bank, State.putBank, h]

/-- A bank number is 0 or 1. -/
theorem bankNo_cases (k : BankNo) : k = 0#1 ∨ k = 1#1 := by
  have := k.isLt
  rcases (by omega : k.toNat = 0 ∨ k.toNat = 1) with h | h
  · exact .inl (BitVec.eq_of_toNat_eq h)
  · exact .inr (BitVec.eq_of_toNat_eq h)

theorem State.bank_putBank_other (s : State) {k k' : BankNo} (b : Bank) (h : k' ≠ k) :
    (s.putBank k b).bank k' = s.bank k' := by
  rcases bankNo_cases k with rfl | rfl <;> rcases bankNo_cases k' with rfl | rfl <;>
    simp_all [State.bank, State.putBank]

/-- A scan entry depends on the scan RAM and on the reset count alone. -/
theorem State.scanEntry_congr (s t : State) (h0 : t.bank0 = s.bank0) (h1 : t.bank1 = s.bank1)
    (hb : t.boots = s.boots) (k : BankNo) (j : Nat) : t.scanEntry k j = s.scanEntry k j := by
  simp [State.scanEntry, State.bank, h0, h1, hb]

end Sys2Proof.Machine
end

