-- ==== Sys2Proof/Laws/Ops.lean ====
section
/-! SUPPORT. One lemma per shared operation that says once what it can do: collaborator calls, register and RAM views, the start sequence. -/

namespace Sys2Proof.Machine

/-! ### Codes -/

@[simp] theorem Phase.ofCode_code (p : Phase) : Phase.ofCode p.code = some p := by cases p <;> rfl

theorem Phase.code_injective (p q : Phase) (h : p.code = q.code) : p = q := by
  have hp := Phase.ofCode_code p
  rw [h, Phase.ofCode_code] at hp
  exact (Option.some.inj hp).symm

/-- A phase takes tokens, has an internal step, or waits with neither (R91, R103). -/
theorem Phase.kinds (p : Phase) :
    (p.takesToken = true ∧ p.hasInternalStep = false)
      ∨ (p.takesToken = false ∧ p.hasInternalStep = true)
      ∨ (p = .idle ∨ p = .waitAck) := by
  cases p <;> simp [Phase.takesToken, Phase.hasInternalStep]

/-! ### Collaborator calls: the answer fixed for the request, used up by it, or a free draw -/

theorem State.callOpen_fixed (s : State) (a : Bool) (h : s.answers.transportOpen = some a) :
    s.callOpen.1 = a ∧ s.callOpen.2.draws = s.draws
      ∧ s.callOpen.2.answers = { s.answers with transportOpen := none } := by
  simp [State.callOpen, h]

theorem State.callOpen_free (s : State) (h : s.answers.transportOpen = none) :
    s.callOpen.1 = Config.drawOpen s.draws ∧ s.callOpen.2.draws = s.draws + 1
      ∧ s.callOpen.2.answers = s.answers := by
  refine ⟨by simp [State.callOpen, h], by simp [State.callOpen, h], ?_⟩
  simp only [State.callOpen, State.log_answers, State.drewIf_answers, State.setAnswers_answers]
  cases ha : s.answers
  simp_all

theorem State.callGpioInit_fixed (s : State) (a : Bool) (h : s.answers.gpioInit = some a) :
    s.callGpioInit.1 = a ∧ s.callGpioInit.2.draws = s.draws
      ∧ s.callGpioInit.2.answers = { s.answers with gpioInit := none } := by
  simp [State.callGpioInit, h]

theorem State.callGpioInit_free (s : State) (h : s.answers.gpioInit = none) :
    s.callGpioInit.1 = Config.drawGpioInit s.draws ∧ s.callGpioInit.2.draws = s.draws + 1
      ∧ s.callGpioInit.2.answers = s.answers := by
  refine ⟨by simp [State.callGpioInit, h], by simp [State.callGpioInit, h], ?_⟩
  simp only [State.callGpioInit, State.log_answers, State.drewIf_answers, State.setAnswers_answers]
  cases ha : s.answers
  simp_all

theorem State.callRealRange_fixed (s : State) (a : Int) (h : s.answers.realRange = some a) :
    s.callRealRange.1 = a ∧ s.callRealRange.2.draws = s.draws
      ∧ s.callRealRange.2.answers = { s.answers with realRange := none } := by
  simp [State.callRealRange, h]

theorem State.callRealRange_free (s : State) (h : s.answers.realRange = none) :
    s.callRealRange.1 = Config.drawRealRange s.draws ∧ s.callRealRange.2.draws = s.draws + 1
      ∧ s.callRealRange.2.answers = s.answers := by
  refine ⟨by simp [State.callRealRange, h], by simp [State.callRealRange, h], ?_⟩
  simp only [State.callRealRange, State.log_answers, State.drewIf_answers, State.setAnswers_answers]
  cases ha : s.answers
  simp_all

theorem State.callRange_fixed (s : State) (a : Option Int) (h : s.answers.range = some a) :
    s.callRange.1 = a ∧ s.callRange.2.draws = s.draws
      ∧ s.callRange.2.answers = { s.answers with range := none } := by
  simp [State.callRange, h]

theorem State.callRange_free (s : State) (h : s.answers.range = none) :
    s.callRange.1 = Config.drawRange s.draws ∧ s.callRange.2.draws = s.draws + 1
      ∧ s.callRange.2.answers = s.answers := by
  refine ⟨by simp [State.callRange, h], by simp [State.callRange, h], ?_⟩
  simp only [State.callRange, State.log_answers, State.drewIf_answers, State.setAnswers_answers]
  cases ha : s.answers
  simp_all

/-- An answer of `get_range` that START accepts is a legal PWM range (R210, R30). -/
theorem badRange_false (p : Config.Params) (g : Option Int) (h : badRange p g = false) :
    ∃ n : Nat, g = some (n : Int) ∧ p.rangeMin ≤ n ∧ n ≤ 65535 ∧ (g.getD 0).toNat = n := by
  cases g with
  | none => simp [badRange] at h
  | some g =>
    simp only [badRange, Bool.or_eq_false_iff, decide_eq_false_iff_not] at h
    have hmax : Config.rangeMax = 65535 := rfl
    obtain ⟨n, rfl⟩ := Int.eq_ofNat_of_zero_le (by omega : 0 ≤ g)
    refine ⟨n, rfl, ?_, ?_, by simp⟩ <;> omega

/-! ### The converter at the widths of R6 -/

/-- The ROM at the widths of R6 is the one of the stated parameters, whatever the other parameters are. -/
theorem qw_statedWidths (p : Config.Params) (hp : p.statedWidths) : qw p = qw Config.params := by
  obtain ⟨h1, h2, -⟩ := hp
  cases p
  subst h1 h2
  rfl

theorem mul_bound (d : BitVec 14) (t : Int) (h : |t| ≤ 4194304) : |(d.toNat : Int) * t| ≤ 68715282432 := by
  rw [abs_mul, Nat.abs_cast]
  have hd : (d.toNat : Int) ≤ 16383 := by have := d.isLt; omega
  calc (d.toNat : Int) * |t| ≤ 16383 * 4194304 :=
        mul_le_mul hd h (abs_nonneg t) (by norm_num)
    _ = 68715282432 := by norm_num

/-- At 40 bits the stored coordinate is the exact product (R153). -/
theorem product_exact (p : Config.Params) (hp : p.statedWidths) (d : BitVec 14) (t : Int)
    (h : |t| ≤ 4194304) : (product p d t).toInt = d.toNat * t := by
  have hb := abs_le.mp (mul_bound d t h)
  obtain ⟨-, -, hx⟩ := hp
  cases p
  subst hx
  simp only [product]
  rw [BitVec.signExtend_eq, BitVec.toInt_ofInt, Int.bmod_eq_of_le] <;> norm_num <;> omega

/-! ### The start sequence (R210): what START can do in IDLE, said once -/

/-- The four ways the start sequence ends, in the order of its calls (R246). -/
theorem State.startSequence_cases (s : State) :
    let o := (s |>.setLs .starting |>.setErr .none).callOpen
    let i := o.2.callGpioInit
    let g := i.2.setUpPwm
    (o.1 = false ∧ s.startSequence = o.2.fatalStart .transportOpen)
      ∨ (o.1 = true ∧ i.1 = false
          ∧ s.startSequence = (i.2.call .transportClose).fatalStart .gpioInit)
      ∨ (o.1 = true ∧ i.1 = true ∧ badRange s.params g.1 = true
          ∧ s.startSequence = g.2.releaseAll.fatalStart .pwmRange)
      ∨ (o.1 = true ∧ i.1 = true ∧ badRange s.params g.1 = false
          ∧ s.startSequence = g.2.beginRun (g.1.getD 0).toNat) := by
  intro o i g
  by_cases ho : o.1 = true
  · by_cases hi : i.1 = true
    · by_cases hg : badRange s.params g.1 = true
      · refine .inr (.inr (.inl ⟨ho, hi, hg, ?_⟩))
        simp only [State.startSequence]
        simp [o, i, g] at ho hi hg
        simp [ho, hi, hg, o, i, g]
      · refine .inr (.inr (.inr ⟨ho, hi, by simpa using hg, ?_⟩))
        simp only [State.startSequence]
        simp [o, i, g] at ho hi hg
        simp [ho, hi, hg, o, i, g]
    · refine .inr (.inl ⟨ho, by simpa using hi, ?_⟩)
      simp only [State.startSequence]
      simp [o, i] at ho hi
      simp [ho, hi, o, i]
  · refine .inl ⟨by simpa using ho, ?_⟩
    simp only [State.startSequence]
    simp [o] at ho
    simp [ho, o]

/-! What no start sequence changes, whichever way it ends (R38, R210). -/

theorem State.startSequence_kept {α : Type} (f : State → α) (s : State)
    (hls : ∀ (t : State) v, f (t.setLs v) = f t) (herr : ∀ (t : State) v, f (t.setErr v) = f t)
    (ho : ∀ t : State, f t.callOpen.2 = f t) (hi : ∀ t : State, f t.callGpioInit.2 = f t)
    (hu : ∀ t : State, f t.setUpPwm.2 = f t) (hr : ∀ t : State, f t.releaseAll = f t)
    (hc : ∀ (t : State) r, f (t.call r) = f t)
    (hf : ∀ (t : State) e, f (t.fatalStart e) = f t) (hb : ∀ (t : State) g, f (t.beginRun g) = f t) :
    f s.startSequence = f s := by
  rcases s.startSequence_cases with ⟨-, h⟩ | ⟨-, -, h⟩ | ⟨-, -, -, h⟩ | ⟨-, -, -, h⟩ <;> rw [h] <;>
    simp only [hls, herr, ho, hi, hu, hr, hc, hf, hb]

@[simp] theorem State.startSequence_params (s : State) : s.startSequence.params = s.params := by
  apply s.startSequence_kept State.params <;> intros <;> simp
@[simp] theorem State.startSequence_target (s : State) : s.startSequence.target = s.target := by
  apply s.startSequence_kept State.target <;> intros <;> simp
@[simp] theorem State.startSequence_cbEn (s : State) : s.startSequence.cbEn = s.cbEn := by
  apply s.startSequence_kept State.cbEn <;> intros <;> simp
@[simp] theorem State.startSequence_frame (s : State) : s.startSequence.frame = s.frame := by
  apply s.startSequence_kept State.frame <;> intros <;> simp
@[simp] theorem State.startSequence_boots (s : State) : s.startSequence.boots = s.boots := by
  apply s.startSequence_kept State.boots <;> intros <;> simp
@[simp] theorem State.startSequence_turns (s : State) : s.startSequence.turns = s.turns := by
  apply s.startSequence_kept State.turns <;> intros <;> simp
@[simp] theorem State.startSequence_rx (s : State) : s.startSequence.rx = s.rx := by
  apply s.startSequence_kept State.rx <;> intros <;> simp

end Sys2Proof.Machine
end

