-- ==== Sys2Proof/Laws/PerInstr.lean ====
section
/-! SUPPORT. Per instruction: the encoding of an instruction is selected by the row of its own mnemonic in spec/opcode_table.json, read as that table prints it (match and mask for a command, the pattern of fixed bits for an ENGINE step). -/

namespace Sys2Proof.Laws

/-- The fixed bits `PHASE[3:0] ++ T[8]` of the token rows, as the opcode table prints them. -/
def tokenRows : List (String × BitVec 5) :=
  [ ("HUNT_BYTE", 0b00100#5), ("HUNT_SHORT", 0b00101#5), ("HDR1_BYTE", 0b00110#5)
  , ("HDR1_SHORT", 0b00111#5), ("PAYLOAD_BYTE", 0b01000#5), ("PAYLOAD_SHORT", 0b01001#5) ]

/-- The bits of the internal rows, as the opcode table prints them. -/
def phaseRows : List (String × BitVec 4) :=
  [ ("TOP", 0b0001#4), ("VALIDATE", 0b0101#4), ("DECODE", 0b0110#4), ("PUBLISH", 0b0111#4)
  , ("ADJUST", 0b1000#4), ("NOTIFY", 0b1001#4), ("STOPSEQ", 0b1011#4) ]

/-- The encoding of `i` is selected by the row of its own mnemonic. -/
def SelectsOwnRow.Statement (i : Instr) : Prop :=
  match encode i with
  | .command c => ∃ r ∈ commandRows, r.mnemonic = i.mnemonic ∧ r.selects c = true
  | .phaseToken p => (i.mnemonic, p.extractLsb' 8 5) ∈ tokenRows
  | .phaseOnly p => (i.mnemonic, p) ∈ phaseRows

/-- What it takes for a command: its row, and the masked word. -/
theorem selects_command (i : Instr) (c : Word) (r : CommandRow) (h : encode i = .command c)
    (hr : r ∈ commandRows) (hm : r.mnemonic = i.mnemonic) (hs : c &&& r.mask = r.matchBits) :
    SelectsOwnRow.Statement i := by
  unfold SelectsOwnRow.Statement
  rw [h]
  exact ⟨r, hr, hm, by simpa [CommandRow.selects] using hs⟩

/-- The fixed bits of a token step's encoding are its phase and its short bit. -/
theorem fixedBits_phaseToken (phase : BitVec 4) (b : BitVec 1) (d : Byte) :
    (cat 13 phase (cat 9 b d)).extractLsb' 8 5 = cat 5 phase b := by
  ext i hi
  interval_cases i <;> simp

theorem SelectsOwnRow.start : SelectsOwnRow.Statement (.start) := by
  refine selects_command _ _ (commandRows[1]) rfl (List.getElem_mem _) rfl ?_
  decide

theorem SelectsOwnRow.stop : SelectsOwnRow.Statement (.stop) := by
  refine selects_command _ _ (commandRows[2]) rfl (List.getElem_mem _) rfl ?_
  decide

theorem SelectsOwnRow.snapshot : SelectsOwnRow.Statement (.snapshot) := by
  refine selects_command _ _ (commandRows[3]) rfl (List.getElem_mem _) rfl ?_
  decide

theorem SelectsOwnRow.readPoint (k : BankNo) (j : BitVec 9) : SelectsOwnRow.Statement (.readPoint k j) := by
  refine selects_command _ _ (commandRows[4]) rfl (List.getElem_mem _) rfl ?_
  ext n hn
  interval_cases n <;> simp [commandRows]

theorem SelectsOwnRow.readRpm : SelectsOwnRow.Statement (.readRpm) := by
  refine selects_command _ _ (commandRows[5]) rfl (List.getElem_mem _) rfl ?_
  decide

theorem SelectsOwnRow.readDrive : SelectsOwnRow.Statement (.readDrive) := by
  refine selects_command _ _ (commandRows[6]) rfl (List.getElem_mem _) rfl ?_
  decide

theorem SelectsOwnRow.readStatus : SelectsOwnRow.Statement (.readStatus) := by
  refine selects_command _ _ (commandRows[7]) rfl (List.getElem_mem _) rfl ?_
  decide

theorem SelectsOwnRow.setTarget (v : Half) : SelectsOwnRow.Statement (.setTarget v) := by
  refine selects_command _ _ (commandRows[8]) rfl (List.getElem_mem _) rfl ?_
  ext n hn
  interval_cases n <;> simp [commandRows]

theorem SelectsOwnRow.readTarget : SelectsOwnRow.Statement (.readTarget) := by
  refine selects_command _ _ (commandRows[9]) rfl (List.getElem_mem _) rfl ?_
  decide

theorem SelectsOwnRow.setCb (e : BitVec 1) : SelectsOwnRow.Statement (.setCb e) := by
  refine selects_command _ _ (commandRows[10]) rfl (List.getElem_mem _) rfl ?_
  ext n hn
  interval_cases n <;> simp [commandRows]

theorem SelectsOwnRow.scanAck : SelectsOwnRow.Statement (.scanAck) := by
  refine selects_command _ _ (commandRows[11]) rfl (List.getElem_mem _) rfl ?_
  decide

theorem SelectsOwnRow.reserved0 (c : BitVec 28) : SelectsOwnRow.Statement (.reserved0 c) := by
  refine selects_command _ _ (commandRows[0]) rfl (List.getElem_mem _) rfl ?_
  ext n hn
  interval_cases n <;> simp [commandRows]

theorem SelectsOwnRow.reservedCF (c : BitVec 30) : SelectsOwnRow.Statement (.reservedCF c) := by
  refine selects_command _ _ (commandRows[12]) rfl (List.getElem_mem _) rfl ?_
  ext n hn
  interval_cases n <;> simp [commandRows]

theorem SelectsOwnRow.huntByte (d : Byte) : SelectsOwnRow.Statement (.huntByte d) := by
  simp only [SelectsOwnRow.Statement, encode, phaseTokenWord, fixedBits_phaseToken, Instr.mnemonic]
  decide

theorem SelectsOwnRow.huntShort (x : Byte) : SelectsOwnRow.Statement (.huntShort x) := by
  simp only [SelectsOwnRow.Statement, encode, phaseTokenWord, fixedBits_phaseToken, Instr.mnemonic]
  decide

theorem SelectsOwnRow.hdr1Byte (d : Byte) : SelectsOwnRow.Statement (.hdr1Byte d) := by
  simp only [SelectsOwnRow.Statement, encode, phaseTokenWord, fixedBits_phaseToken, Instr.mnemonic]
  decide

theorem SelectsOwnRow.hdr1Short (x : Byte) : SelectsOwnRow.Statement (.hdr1Short x) := by
  simp only [SelectsOwnRow.Statement, encode, phaseTokenWord, fixedBits_phaseToken, Instr.mnemonic]
  decide

theorem SelectsOwnRow.payloadByte (d : Byte) : SelectsOwnRow.Statement (.payloadByte d) := by
  simp only [SelectsOwnRow.Statement, encode, phaseTokenWord, fixedBits_phaseToken, Instr.mnemonic]
  decide

theorem SelectsOwnRow.payloadShort (x : Byte) : SelectsOwnRow.Statement (.payloadShort x) := by
  simp only [SelectsOwnRow.Statement, encode, phaseTokenWord, fixedBits_phaseToken, Instr.mnemonic]
  decide

theorem SelectsOwnRow.top : SelectsOwnRow.Statement (.top) := by
  simp [SelectsOwnRow.Statement, encode, Instr.mnemonic, phaseRows]

theorem SelectsOwnRow.validate : SelectsOwnRow.Statement (.validate) := by
  simp [SelectsOwnRow.Statement, encode, Instr.mnemonic, phaseRows]

theorem SelectsOwnRow.decode : SelectsOwnRow.Statement (.decode) := by
  simp [SelectsOwnRow.Statement, encode, Instr.mnemonic, phaseRows]

theorem SelectsOwnRow.publish : SelectsOwnRow.Statement (.publish) := by
  simp [SelectsOwnRow.Statement, encode, Instr.mnemonic, phaseRows]

theorem SelectsOwnRow.adjust : SelectsOwnRow.Statement (.adjust) := by
  simp [SelectsOwnRow.Statement, encode, Instr.mnemonic, phaseRows]

theorem SelectsOwnRow.notify : SelectsOwnRow.Statement (.notify) := by
  simp [SelectsOwnRow.Statement, encode, Instr.mnemonic, phaseRows]

theorem SelectsOwnRow.stopseq : SelectsOwnRow.Statement (.stopseq) := by
  simp [SelectsOwnRow.Statement, encode, Instr.mnemonic, phaseRows]

end Sys2Proof.Laws
end

