-- ==== Sys2Proof/Laws/Step.lean ====
section
/-! SUPPORT. What the fetch can bring and what a step can do, said once. -/

namespace Sys2Proof.Machine

/-- An ENGINE turn: unreachable, an internal step of its phase, or held. -/
theorem fetchInternal_cases (s : State) :
    (s.ls ≠ s.phase.lifecycle ∧ fetchInternal s = .unreachable s.ls s.phase)
      ∨ (s.ls = s.phase.lifecycle ∧ s.phase.hasInternalStep = true
          ∧ fetchInternal s = .input (.phaseOnly s.phase.code) s)
      ∨ (s.ls = s.phase.lifecycle ∧ s.phase.hasInternalStep = false ∧ fetchInternal s = .hold s) := by
  by_cases h : s.ls = s.phase.lifecycle
  · cases h2 : s.phase.hasInternalStep
    · exact .inr (.inr ⟨h, rfl, by simp [fetchInternal, State.pairLegal, h, h2]⟩)
    · exact .inr (.inl ⟨h, rfl, by simp [fetchInternal, State.pairLegal, h, h2]⟩)
  · exact .inl ⟨h, by simp [fetchInternal, State.pairLegal, h]⟩

/-- A TRANSPORT turn: unreachable, the next token in a phase that takes it, or held. -/
theorem fetchToken_cases (s : State) :
    (s.ls ≠ s.phase.lifecycle ∧ fetchToken s = .unreachable s.ls s.phase)
      ∨ (∃ t rest, s.ls = s.phase.lifecycle ∧ s.phase.takesToken = true ∧ s.rx = t :: rest
          ∧ fetchToken s = .input (.phaseToken (cat 13 s.phase.code t)) (s.setRx rest))
      ∨ (s.ls = s.phase.lifecycle ∧ (s.phase.takesToken = false ∨ s.rx = []) ∧ fetchToken s = .hold s) := by
  by_cases h : s.ls = s.phase.lifecycle
  · cases h2 : s.phase.takesToken
    · exact .inr (.inr ⟨h, .inl rfl, by simp [fetchToken, State.pairLegal, h, h2]⟩)
    · cases h3 : s.rx with
      | nil => exact .inr (.inr ⟨h, .inr rfl, by simp [fetchToken, State.pairLegal, h, h2, h3]⟩)
      | cons t rest =>
        exact .inr (.inl ⟨t, rest, h, rfl, rfl, by simp [fetchToken, State.pairLegal, h, h2, h3]⟩)
  · exact .inl ⟨h, by simp [fetchToken, State.pairLegal, h]⟩

/-- An internal step's phase decodes to that step's instruction (R103). -/
theorem decode_phaseOnly_code (p : Phase) (h : p.hasInternalStep = true) :
    ∃ i, decode (.phaseOnly p.code) = .instr i ∧ (p, i) ∈
      [(Phase.top, Instr.top), (.validate, .validate), (.decode, .decode), (.publish, .publish),
        (.adjust, .adjust), (.notify, .notify), (.stopseq, .stopseq)] := by
  cases p <;> simp [Phase.hasInternalStep] at h <;>
    exact ⟨_, rfl, by simp⟩

/-- What a step that answers a next state has done: held, reset, an answer fixed, an instruction run, or a
command word rejected. -/
theorem step_next_cases (s t : State) (h : step s = .next t) :
    fetch s = .hold t
      ∨ (∃ s', fetch s = .powerOn s' ∧ t = s'.powerOnReset)
      ∨ fetch s = .answered t
      ∨ (∃ w s' i, fetch s = .input w s' ∧ decode w = .instr i ∧ exec i s' = .next t)
      ∨ (∃ w s' e, fetch s = .input w s' ∧ decode w = .rejected e ∧ runRejected e s' = .next t) := by
  unfold step at h
  split at h
  · rename_i s' hf; cases h; exact .inl hf
  · rename_i s' hf; cases h; exact .inr (.inl ⟨s', hf, rfl⟩)
  · rename_i s' hf; cases h; exact .inr (.inr (.inl hf))
  · rename_i w s' hf
    unfold runInput at h
    split at h
    · rename_i i hd; exact .inr (.inr (.inr (.inl ⟨w, s', i, hf, hd, h⟩)))
    · rename_i e hd; exact .inr (.inr (.inr (.inr ⟨w, s', e, hf, hd, h⟩)))
  · cases h

/-- A rejected input never stops the machine: BADCMD (R95), or a hold. -/
theorem runRejected_next (e : DecodeError) (s : State) :
    runRejected e s = .next s.badCommand ∨ runRejected e s = .next s := by
  cases e <;> simp [runRejected]

/-! ### The one case split of a step -/

/-- The instruction of a token in a phase that takes it (R91, R103). -/
def tokenInstr (p : Phase) (t : Token) : Instr :=
  let d : Byte := t.extractLsb' 0 8
  match p, t.getLsbD 8 with
  | .hunt, false => .huntByte d
  | .hunt, true => .huntShort d
  | .hdr1, false => .hdr1Byte d
  | .hdr1, true => .hdr1Short d
  | .payload, false => .payloadByte d
  | _, _ => .payloadShort d

/-- The instruction of an internal step's phase (R103). -/
def internalInstr (p : Phase) : Instr :=
  match p with
  | .validate => .validate
  | .decode => .decode
  | .publish => .publish
  | .adjust => .adjust
  | .notify => .notify
  | .stopseq => .stopseq
  | .top | .idle | .hunt | .hdr1 | .payload | .waitAck => .top

theorem decode_internal (p : Phase) (h : p.hasInternalStep = true) :
    decode (.phaseOnly p.code) = .instr (internalInstr p) := by
  cases p <;> simp [Phase.hasInternalStep] at h <;> rfl

theorem decode_token (p : Phase) (t : Token) (h : p.takesToken = true) :
    decode (.phaseToken (cat 13 p.code t)) = .instr (tokenInstr p t) := by
  have hb : (cat 13 p.code t).getLsbD 8 = t.getLsbD 8 := by simp
  have hp : (cat 13 p.code t).extractLsb' 9 4 = p.code := extractLsb'_cat_high _ _ rfl
  have hd : (cat 13 p.code t).extractLsb' 0 8 = t.extractLsb' 0 8 := by
    ext i hi
    simp [show i < 9 by omega, show i < 13 by omega]
  simp only [decode, decodePhaseToken, hb, hp, hd]
  cases p <;> simp [Phase.takesToken] at h <;> simp only [tokenInstr] <;> cases t.getLsbD 8 <;> rfl

/-- The low two bits of STATUS are `LS` (R35). -/
theorem State.statusWord_ls (s : State) : s.statusWord.extractLsb' 0 2 = s.ls.code := by
  ext i hi
  have h5 : i < 5 := by omega
  simp [State.statusWord, hi, h5, show i < 16 by omega, show i < 8 by omega, show i < 32 by omega]

/-- A poll reads IDLE exactly in IDLE (R101). -/
theorem State.readsIdle_iff (s : State) : s.readsIdle = true ↔ s.ls = .idle := by
  rw [State.readsIdle, State.statusWord_ls]
  cases s.ls <;> decide

theorem decode_readStatus : decode (encode .readStatus) = .instr .readStatus := rfl

/-- Everything a step that answers a next state can have done, `ts` being the schedule it leaves: a turn
with nothing to do; a power-on reset; a host command; an internal step; a token; a line of a script that
fixes an answer or polls STATUS. -/
theorem step_cases (s t : State) (h : step s = .next t) :
    (∃ ts, t = s.setTurns ts ∧ s.ls = s.phase.lifecycle
        ∧ (s.turns = [] ∧ ts = [] ∨ s.turns = .engine :: ts ∨ s.turns = .transport :: ts))
      ∨ (∃ ts, s.turns = .powerOn :: ts ∧ t = (s.setTurns ts).powerOnReset)
      ∨ (∃ c ts, s.turns = .host c :: ts ∧ runInput (.command c) (s.setTurns ts) = .next t)
      ∨ (∃ ts, s.ls = s.phase.lifecycle ∧ s.phase.hasInternalStep = true
          ∧ (s.turns = [] ∧ ts = [] ∨ s.turns = .engine :: ts)
          ∧ exec (internalInstr s.phase) (s.setTurns ts) = .next t)
      ∨ (∃ ts tok more, s.ls = s.phase.lifecycle ∧ s.phase.takesToken = true ∧ s.rx = tok :: more
          ∧ (s.turns = [] ∧ ts = [] ∨ s.turns = .transport :: ts)
          ∧ exec (tokenInstr s.phase tok) ((s.setTurns ts).setRx more) = .next t)
      ∨ (∃ a ts, s.turns = .answer a :: ts ∧ t = (s.setTurns ts).fixAnswer a)
      ∨ (∃ ts, s.turns = .pollIdle :: ts
          ∧ exec .readStatus (if s.readsIdle then s.setTurns ts else s) = .next t) := by
  have hi : ∀ ts, (s.turns = [] ∧ ts = [] ∨ s.turns = .engine :: ts) →
      fetch s = fetchInternal (s.setTurns ts) →
      (∃ ts, t = s.setTurns ts ∧ s.ls = s.phase.lifecycle
        ∧ (s.turns = [] ∧ ts = [] ∨ s.turns = .engine :: ts ∨ s.turns = .transport :: ts))
      ∨ (∃ ts, s.ls = s.phase.lifecycle ∧ s.phase.hasInternalStep = true
          ∧ (s.turns = [] ∧ ts = [] ∨ s.turns = .engine :: ts)
          ∧ exec (internalInstr s.phase) (s.setTurns ts) = .next t) := by
    intro ts hts hf
    rcases fetchInternal_cases (s.setTurns ts) with ⟨-, e⟩ | ⟨hl, hs, e⟩ | ⟨hl, -, e⟩
    · simp [step, hf, e] at h
    · have hd := decode_internal s.phase hs
      simp only [step, hf, e, runInput, State.setTurns_phase, hd] at h
      exact .inr ⟨ts, hl, hs, hts, h⟩
    · simp only [step, hf, e, Host.Outcome.next.injEq] at h
      exact .inl ⟨ts, h.symm, hl, by tauto⟩
  have ht : ∀ ts, (s.turns = [] ∧ ts = [] ∨ s.turns = .transport :: ts) →
      fetch s = fetchToken (s.setTurns ts) →
      (∃ ts, t = s.setTurns ts ∧ s.ls = s.phase.lifecycle
        ∧ (s.turns = [] ∧ ts = [] ∨ s.turns = .engine :: ts ∨ s.turns = .transport :: ts))
      ∨ (∃ ts tok more, s.ls = s.phase.lifecycle ∧ s.phase.takesToken = true ∧ s.rx = tok :: more
          ∧ (s.turns = [] ∧ ts = [] ∨ s.turns = .transport :: ts)
          ∧ exec (tokenInstr s.phase tok) ((s.setTurns ts).setRx more) = .next t) := by
    intro ts hts hf
    rcases fetchToken_cases (s.setTurns ts) with ⟨-, e⟩ | ⟨tok, more, hl, hs, hr, e⟩ | ⟨hl, -, e⟩
    · simp [step, hf, e] at h
    · have hd := decode_token s.phase tok hs
      simp only [step, hf, e, runInput, State.setTurns_phase, hd] at h
      exact .inr ⟨ts, tok, more, hl, hs, hr, hts, h⟩
    · simp only [step, hf, e, Host.Outcome.next.injEq] at h
      exact .inl ⟨ts, h.symm, hl, by tauto⟩
  have hs : s.turns = [] ∨ ∃ a ts, s.turns = a :: ts := by cases s.turns <;> simp
  rcases hs with hturns | ⟨a, ts, hturns⟩
  · have hset : s.setTurns [] = s := by rw [← hturns]; rfl
    by_cases htok : s.phase.takesToken = true
    · rcases ht [] (.inl ⟨hturns, rfl⟩) (by simp [fetch, hturns, fetchUnscheduled, htok, hset])
        with h' | h'
      · exact .inl h'
      · exact .inr (.inr (.inr (.inr (.inl h'))))
    · rcases hi [] (.inl ⟨hturns, rfl⟩) (by simp [fetch, hturns, fetchUnscheduled, htok, hset])
        with h' | h'
      · exact .inl h'
      · exact .inr (.inr (.inr (.inl h')))
  · cases a with
    | host c => exact .inr (.inr (.inl ⟨c, ts, hturns, by simpa [step, fetch, hturns] using h⟩))
    | engine =>
      rcases hi ts (.inr hturns) (by simp [fetch, hturns]) with h' | h'
      · exact .inl h'
      · exact .inr (.inr (.inr (.inl h')))
    | transport =>
      rcases ht ts (.inr hturns) (by simp [fetch, hturns]) with h' | h'
      · exact .inl h'
      · exact .inr (.inr (.inr (.inr (.inl h'))))
    | answer a => exact .inr (.inr (.inr (.inr (.inr (.inl ⟨a, ts, hturns, by
        simpa [step, fetch, hturns, eq_comm] using h⟩)))))
    | pollIdle => exact .inr (.inr (.inr (.inr (.inr (.inr ⟨ts, hturns, by
        simpa [step, fetch, hturns, runInput, decode_readStatus] using h⟩)))))
    | powerOn => exact .inr (.inl ⟨ts, hturns, by simpa [step, fetch, hturns, eq_comm] using h⟩)

end Sys2Proof.Machine
end

