-- ==== Sys2Proof/Tests/Slice0.lean ====
section
/-! SUPPORT. Tests: the well-formedness smoke test, words written out from the spec's encodings, single steps from the vectors of 95_test_vectors.md, and one witness for every statement that has hypotheses. -/

namespace Sys2Proof.Tests

-- One test after the other: each kernel evaluation waits for what stands before it, and as many waiting
-- threads as there are tests do not fit in the memory the check allows.
set_option Elab.async false

open Sys2Proof.Machine

/-! ### Helpers -/

/-- A state in phase `p` with a PWM range of 200 and the drive its START presets. -/
def st (p : Phase) : State :=
  { State.reset with ls := p.lifecycle, phase := p, pwmRange := 200#16, drive := 50#16 }

/-- What `f` sees of the next state. -/
def got {α : Type} (o : Out) (f : State → α) : Option α :=
  match o with
  | .next t => some (f t)
  | .fault _ => none
  | .refused _ => none

/-- The response a step gives. -/
def answer (o : Out) : Option (Option (Word × List Word)) := got o fun t => lastResponse t.trace

/-- `s` with the answers of a START fixed. -/
def withAnswers (s : State) (o i : Bool) (rr : Int) (g : Option Int) : State :=
  { s with answers := { transportOpen := some o, gpioInit := some i, realRange := some rr, range := some g } }

/-- A frame RAM of 1980 zero bytes. -/
def zeroFrame : Memory := (List.range 1980).map fun i => (i, 0#8)

/-- The parameters with a header of two zero bytes. -/
def zeroParams : Config.Params := { Config.params with hdr0 := 0#8, hdr1 := 0#8 }

/-! ### Well-formedness refuses each ill-formed term -/

theorem test_wf_refuses_index_360 : Instr.wf (.readPoint 0#1 360#9) = false := by decide
theorem test_wf_accepts_index_359 : Instr.wf (.readPoint 1#1 359#9) = true := by decide
theorem test_wf_refuses_reserved_0 : Instr.wf (.reserved0 0#28) = false := by decide
theorem test_wf_refuses_reserved_c_f : Instr.wf (.reservedCF 0x30000000#30) = false := by decide

/-! ### Words of the spec's encodings (95_test_vectors.md section 3, opcode_table.json) -/

theorem test_decode_start : decode (.command 0x10000000#32) = .instr .start := by decide
theorem test_decode_stop : decode (.command 0x20000000#32) = .instr .stop := by decide
theorem test_decode_snapshot : decode (.command 0x30000000#32) = .instr .snapshot := by decide
theorem test_decode_readPoint : decode (.command 0x40001167#32) = .instr (.readPoint 1#1 359#9) := by decide
theorem test_decode_readRpm : decode (.command 0x50000000#32) = .instr .readRpm := by decide
theorem test_decode_readDrive : decode (.command 0x60000000#32) = .instr .readDrive := by decide
theorem test_decode_readStatus : decode (.command 0x70000000#32) = .instr .readStatus := by decide
theorem test_decode_setTarget : decode (.command 0x80003E80#32) = .instr (.setTarget 16000#16) := by decide
theorem test_decode_readTarget : decode (.command 0x90000000#32) = .instr .readTarget := by decide
theorem test_decode_setCb : decode (.command 0xA0000001#32) = .instr (.setCb 1#1) := by decide
theorem test_decode_scanAck : decode (.command 0xB0000000#32) = .instr .scanAck := by decide
theorem test_decode_reserved0 : decode (.command 0x00000000#32) = .instr (.reserved0 0#28) := by decide
theorem test_decode_reservedCF : decode (.command 0xF0000000#32) = .instr (.reservedCF 0x30000000#30) := by decide
theorem test_decode_huntByte : decode (.phaseToken 0b0010011111010#13) = .instr (.huntByte 0xFA#8) := by decide
theorem test_decode_huntShort : decode (.phaseToken 0b0010111111010#13) = .instr (.huntShort 0xFA#8) := by decide
theorem test_decode_hdr1Byte : decode (.phaseToken 0b0011010100000#13) = .instr (.hdr1Byte 0xA0#8) := by decide
theorem test_decode_hdr1Short : decode (.phaseToken 0b0011100000000#13) = .instr (.hdr1Short 0#8) := by decide
theorem test_decode_payloadByte : decode (.phaseToken 0b0100000111100#13) = .instr (.payloadByte 0x3C#8) := by decide
theorem test_decode_payloadShort : decode (.phaseToken 0b0100100000000#13) = .instr (.payloadShort 0#8) := by decide
theorem test_decode_top : decode (.phaseOnly 0b0001#4) = .instr .top := by decide
theorem test_decode_validate : decode (.phaseOnly 0b0101#4) = .instr .validate := by decide
theorem test_decode_decode : decode (.phaseOnly 0b0110#4) = .instr .decode := by decide
theorem test_decode_publish : decode (.phaseOnly 0b0111#4) = .instr .publish := by decide
theorem test_decode_adjust : decode (.phaseOnly 0b1000#4) = .instr .adjust := by decide
theorem test_decode_notify : decode (.phaseOnly 0b1001#4) = .instr .notify := by decide
theorem test_decode_stopseq : decode (.phaseOnly 0b1011#4) = .instr .stopseq := by decide

/-- Every illegal word of 95_test_vectors.md section 3.2, answered BADCMD. -/
def illegalWords : List Word :=
  [0x00000000#32, 0x10000001#32, 0x20000100#32, 0x30000001#32, 0x40000168#32, 0x400001FF#32
  , 0x4000116A#32, 0x40000200#32, 0x40002000#32, 0x50000001#32, 0x80010000#32, 0x9FFFFFFF#32
  , 0xA0000002#32, 0xB0000001#32, 0xC0000000#32, 0xD0000000#32, 0xF0000000#32]

theorem test_illegal_words_answer_badCmd :
    (illegalWords.all fun c => answer (runInput (.command c) State.reset) == some (some (1#32, []))) = true := by
  decide +kernel

theorem test_phases_without_a_step_are_rejected :
    [0b0000#4, 0b0010#4, 0b1010#4, 0b1111#4].map (fun p => decode (.phaseOnly p))
      = [0b0000#4, 0b0010#4, 0b1010#4, 0b1111#4].map (fun p => .rejected (.noSuchStep p)) := by decide

/-! ### The host's two definitions -/

theorem test_table_word_of_each_width :
    [decodeTableWord 32 0x40000005, decodeTableWord 16 0b0010011111010, decodeTableWord 8 0b1011]
      = [some (.readPoint 0#1 5#9), some (.huntByte 0xFA#8), some .stopseq] := by decide
theorem test_withFetchWord_runs_a_command :
    got (step (State.reset.withFetchWord 32 0x80004B00)) (·.target) = some 19200#16 := by decide +kernel
theorem test_withFetchWord_runs_a_token :
    got (step (State.reset.withFetchWord 16 0b0010011111010)) (fun t => (t.phase, t.count))
      = some (.hdr1, 1#11) := by decide +kernel
theorem test_withFetchWord_runs_an_internal_step :
    got (step (State.reset.withFetchWord 8 0b0001)) (·.phase) = some .hunt := by decide +kernel

/-! ### Single steps: the vectors of 95_test_vectors.md -/

theorem test_v2_hunt_discards_second_header :
    got (exec (.huntByte 0xA0#8) (st .hunt)) (fun t => (t.phase, t.count)) = some (.hunt, 0#11) := by
  decide +kernel
theorem test_v3_hunt_takes_first_header :
    got (exec (.huntByte 0xFA#8) (st .hunt)) (fun t => (t.phase, t.count, Memory.read t.frame 0))
      = some (.hdr1, 1#11, some 0xFA#8) := by decide +kernel
theorem test_v5_short_ignores_its_low_bits :
    got (exec (.huntShort 0xFA#8) (st .hunt)) (fun t => (t.phase, t.count)) = some (.hunt, 0#11) := by
  decide +kernel
theorem test_v6_hdr1_matches :
    got (exec (.hdr1Byte 0xA0#8) { st .hdr1 with count := 1#11 })
      (fun t => (t.phase, t.count, Memory.read t.frame 1)) = some (.payload, 2#11, some 0xA0#8) := by
  decide +kernel
theorem test_v7_hdr1_fresh_candidate :
    got (exec (.hdr1Byte 0xFA#8) { st .hdr1 with count := 1#11 }) (fun t => (t.phase, t.count))
      = some (.hdr1, 1#11) := by decide +kernel
theorem test_v9_hdr1_short :
    got (exec (.hdr1Short 0#8) { st .hdr1 with count := 1#11 }) (fun t => (t.phase, t.count))
      = some (.hunt, 0#11) := by decide +kernel
theorem test_v10_payload_stores_a_header_byte :
    got (exec (.payloadByte 0xFA#8) { st .payload with count := 2#11 })
      (fun t => (t.phase, t.count, Memory.read t.frame 2)) = some (.payload, 3#11, some 0xFA#8) := by
  decide +kernel
theorem test_v11_last_payload_byte :
    got (exec (.payloadByte 0x3C#8) { st .payload with count := 1979#11 })
      (fun t => (t.phase, t.count, Memory.read t.frame 1979)) = some (.validate, 1980#11, some 0x3C#8) := by
  decide +kernel
theorem test_v12_payload_short :
    got (exec (.payloadShort 0#8) { st .payload with count := 500#11 })
      (fun t => (t.phase, t.count, t.trace)) = some (.top, 0#11, [.drop .shortRead]) := by decide +kernel

theorem test_v21_checksum_of_all_ones :
    (foldWords (List.replicate 10 0xFFFF#16), reduceSum (foldWords (List.replicate 10 0xFFFF#16)))
      = (67042305, 1022) := by decide +kernel
theorem test_v27_checksum_of_a_packet :
    (foldWords [0xBC9C#16, 0x44BC#16, 0x066D#16, 0x669B#16, 0xC9A3#16, 0x68D2#16, 0x71D8#16, 0xDDCB#16
      , 0xEEA0#16, 0x0741#16]) = 33783085 ∧ reduceSum 33783085 = 307 := by decide +kernel

/-- V40 to V50: chunk bytes at entry `j`, and what DECODE leaves there over an entry with nothing
written. -/
def decodedChunk (j : Nat) (b0 b1 b2 b3 : Byte) : ScanCell :=
  let o := chunkBase (packetOf j) (chunkOf j)
  ((((st .decode).putFrame o b0).putFrame (o + 1) b1).putFrame (o + 2) b2 |>.putFrame (o + 3) b3).decodedCell j
    unwrittenCell

theorem test_v41_invalid_flag : decodedChunk 0 0xE8#8 0x83#8 0x34#8 0x12#8
    = { unwrittenCell with valid := some false } := by decide +kernel
theorem test_v45_entry_359 : decodedChunk 359 0xFF#8 0x3F#8 0x01#8 0x00#8
    = ⟨some true, some false, some 16383#14, some 1#16, some 0xF000DFBD81#40, some 0x00477B220F#40⟩ := by
  decide +kernel
theorem test_v48_too_close_is_valid : decodedChunk 135 0xD2#8 0x44#8 0xFF#8 0x00#8
    = ⟨some true, some true, some 1234#14, some 0x00FF#16, some 0x00DA24780A#40, some 0xFF25DB87F6#40⟩ := by
  decide +kernel

theorem test_v53_largest_speed_field : (((st .decode).putFrame 2 0xFF#8).putFrame 3 0xFF#8).speed 0
    = 65535#16 := by decide +kernel

theorem test_v55_publish : got (exec .publish (st .publish)) (fun t => (t.wrSel, t.phase))
    = some (1#1, .adjust) := by decide +kernel
theorem test_v56_snapshot : answer (exec .snapshot { st .top with wrSel := 1#1 })
    = some (some (0#32, [0#32])) := by decide +kernel
theorem test_v57_status_after_reset : answer (exec .readStatus State.reset)
    = some (some (0#32, [0x00000008#32])) := by decide +kernel
theorem test_status_word_of_a_full_frame :
    { st .validate with count := 1980#11, cbEn := true }.statusWord = 0x07BC504A#32 := by decide +kernel
theorem test_v58_readPoint :
    answer (exec (.readPoint 0#1 0#9) { State.reset with
      bank0 := [(0, ⟨some true, some false, some 1000#14, some 0x1234#16, some 0xFF06000000#40, some 0#40⟩)] })
      = some (some (0#32, [0x123483E8#32, 0x06000000#32, 0x00000000#32, 0x000000FF#32])) := by decide +kernel
theorem test_v59b_readPoint_360 : answer (exec (.readPoint 1#1 360#9) (st .top))
    = some (some (1#32, [])) := by decide +kernel

theorem test_v60_adjust_tie_rounds_away :
    got (exec .adjust { st .adjust with speedSum := 1152000#23 }) (·.drive) = some 51#16 := by decide +kernel
theorem test_v63_adjust_clamps_at_zero :
    got (exec .adjust { st .adjust with target := 0#16, speedSum := 1152000#23, drive := 1#16 }) (·.drive)
      = some 0#16 := by decide +kernel
theorem test_v74_readRpm : answer (exec .readRpm { st .top with speedSum := 1152000#23 })
    = some (some (0#32, [0x00119400#32])) := by decide +kernel
theorem test_v75_readDrive : answer (exec .readDrive (st .top))
    = some (some (0#32, [0x00C80032#32])) := by decide +kernel

theorem test_v80a_start_presets_the_drive :
    got (exec .start (withAnswers State.reset true true 200 (some 201)))
      (fun t => (t.ls, t.phase, t.pwmRange, t.drive)) = some (.running, .top, 201#16, 50#16) := by decide +kernel
theorem test_v83_start_open_failure :
    got (exec .start (withAnswers State.reset false true 200 (some 200)))
      (fun t => (t.ls, t.err, lastResponse t.trace)) = some (.idle, .transportOpen, some (2#32, [2#32])) := by
  decide +kernel
theorem test_v85_stop_while_running : got (exec .stop (st .hunt)) (fun t => (t.stopReq, t.phase))
    = some (true, .hunt) := by decide +kernel
theorem test_v86_stop_in_idle : got (exec .stop State.reset) (·.stopReq) = some false := by decide +kernel
theorem test_v87_top_sees_the_stop : got (exec .top { st .top with stopReq := true })
    (fun t => (t.ls, t.phase)) = some (.stopping, .stopseq) := by decide +kernel
theorem test_v88_stopseq : got (exec .stopseq { st .stopseq with drive := 57#16, stopReq := true })
    (fun t => (t.drive, t.ls, t.phase, t.stopReq, t.trace))
    = some (0#16, .idle, .idle, false, [.call (.writeDuty 18 0#16) .nothing,
        .call (.setMode 18 .input) .nothing, .call .gpioTerminate .nothing, .call .transportClose .nothing]) := by
  decide +kernel
theorem test_v89_notify : got (exec .notify { st .notify with cbEn := true, speedSum := 1152000#23, wrSel := 1#1 })
    (fun t => (t.scanReady, t.phase, t.trace)) = some (true, .waitAck, [.scanReady 1152000#23 0#1]) := by
  decide +kernel
theorem test_v91_scanAck : got (exec .scanAck { st .waitAck with scanReady := true })
    (fun t => (t.scanReady, t.phase)) = some (false, .top) := by decide +kernel
theorem test_v93_setCb_keeps_a_pending_event :
    got (exec (.setCb 0#1) { st .waitAck with scanReady := true, cbEn := true })
      (fun t => (t.cbEn, t.scanReady, t.phase)) = some (false, true, .waitAck) := by decide +kernel
theorem test_v94_setTarget : got (exec (.setTarget 19200#16) State.reset) (·.target) = some 19200#16 := by
  decide +kernel
theorem test_v97_readTarget : answer (exec .readTarget State.reset)
    = some (some (0#32, [0x00003E80#32])) := by decide +kernel
theorem test_reserved0 : answer (exec (.reserved0 0#28) (st .hunt)) = some (some (1#32, [])) := by
  decide +kernel
theorem test_reservedCF : answer (exec (.reservedCF 0#30) (st .hunt)) = some (some (1#32, [])) := by
  decide +kernel


/-! ### Script lines (R100, R101; the vectors of P5) -/

/-- The responses of a state's trace. -/
def responses (s : State) : List (Word × List Word) :=
  s.trace.filterMap fun
    | .response st d => some (st, d)
    | _ => none

/-- An ANSWER fixes the next such request after its line: the first START does not take the second's. -/
theorem test_p5_answers_fix_the_next_request :
    got (Host.Core.run Sys2Proof.core 7 (State.reset.loadScript
      [.answer (.transportOpen true), .answer (.gpioInit true), .answer (.realRange 20)
      , .answer (.range (some 20)), .cmd .start, .answer (.transportOpen false), .cmd .start])) responses
      = some [(2#32, [3#32]), (2#32, [2#32])] := by decide +kernel
/-- An ANSWER that stands behind a START leaves that START's request a free draw. -/
theorem test_answer_after_a_request_does_not_fix_it :
    (State.reset.loadScript [.cmd .start, .answer (.transportOpen false)]).answers = Answers.free := rfl
theorem test_waitIdle_polls_while_running :
    got (step ((st .hunt).setTurns [.pollIdle])) (fun t => (t.turns, responses t))
      = some ([.pollIdle], [(0#32, [0x0000200A#32])]) := by decide +kernel
theorem test_waitIdle_ends_in_idle :
    got (step (State.reset.setTurns [.pollIdle])) (fun t => (t.turns, responses t))
      = some ([], [(0#32, [0x00000008#32])]) := by decide +kernel

/-! ### A frame of zero bytes: what it takes to pass VALIDATE -/

theorem cellsGet_zeros (n k a : Nat) (h1 : k ≤ a) (h2 : a < k + n) :
    cellsGet ((List.range' k n).map fun i => (i, (0#8 : Byte))) a = some 0#8 := by
  induction n generalizing k with
  | zero => omega
  | succ n ih =>
    simp only [List.range'_succ, List.map_cons, cellsGet]
    split
    · rfl
    · exact ih (k + 1) (by omega) (by omega)

theorem read_zeroFrame (i : Nat) (h : i < 1980) : Memory.read zeroFrame i = some 0#8 := by
  unfold zeroFrame Memory.read
  rw [List.range_eq_range']
  exact cellsGet_zeros 1980 0 i (by omega) (by omega)

theorem frameOk_of_zeros (s : State) (h : ∀ i, i < 1980 → s.frameByte i = 0#8) : s.frameOk = true := by
  unfold State.frameOk
  rw [List.all_eq_true]
  intro p hp
  have hp : p < 90 := by simpa [Config.npkt] using hp
  have hw : ∀ i, i < 11 → s.word p i = 0#16 := by
    intro i hi
    unfold State.word State.le16 packetBase Config.pktSize
    rw [h _ (by omega), h _ (by omega)]
    rfl
  have hs : s.stored p = 0#16 := by simpa [State.word, State.stored] using hw 10 (by omega)
  have hc : s.packetWords p = List.replicate 10 0#16 := by
    unfold State.packetWords
    simp [List.range_succ, hw, List.replicate]
  unfold State.pass State.chk
  rw [hc, hs]
  decide

/-- An accepted frame of zero bytes before DECODE, the scan RAM cleared by a START. -/
def zeroAccepted : State :=
  { st .decode with params := zeroParams, frame := zeroFrame, bank0 := invalidated [], bank1 := invalidated [] }

theorem zeroAccepted_frameByte (i : Nat) (h : i < 1980) : zeroAccepted.frameByte i = 0#8 := by
  simp [State.frameByte, zeroAccepted, read_zeroFrame i h]

theorem zeroAccepted_cell (k : BankNo) (j : Nat) : Bank.cell (zeroAccepted.bank k) j =
    if j < Config.npoints then { unwrittenCell with valid := some false } else unwrittenCell := by
  have hb : zeroAccepted.bank k = invalidated [] := by
    rcases bankNo_cases k with rfl | rfl <;> rfl
  rw [hb, cell_invalidated]
  rfl

theorem zeroAccepted_inv : zeroAccepted.Inv where
  pair := rfl
  count := rfl
  frameWf := by decide +kernel
  bank0Wf := wf_invalidated [] rfl
  bank1Wf := wf_invalidated [] rfl
  written := fun i h => absurd h (by simp [zeroAccepted, st, State.reset])
  header0 := fun h => absurd h (by simp [zeroAccepted, st, State.reset])
  header1 := fun h => absurd h (by simp [zeroAccepted, st, State.reset])
  accepted := fun _ => ⟨frameOk_of_zeros _ zeroAccepted_frameByte,
    fun i h => by simp [State.frameWritten, zeroAccepted, read_zeroFrame i h],
    zeroAccepted_frameByte 0 (by decide), zeroAccepted_frameByte 1 (by decide)⟩
  speed := by decide
  drive := by decide
  range := fun _ => by decide
  ready := rfl
  stopIdle := fun h => by simp [zeroAccepted, st, Phase.lifecycle] at h
  stopStopping := fun h => by simp [zeroAccepted, st, Phase.lifecycle] at h
  error := fun h => by simp [zeroAccepted, st, State.reset] at h
  valid := fun _ k j h => by rw [zeroAccepted_cell, if_pos h]; rfl
  sound := fun k j h => by rw [zeroAccepted_cell] at h; split at h <;> simp [unwrittenCell] at h

theorem test_validate_accepts_zeros (s : State) (h : ∀ i, i < 1980 → s.frameByte i = 0#8) :
    got (exec .validate s) (fun t => (t.phase, t.count)) = some (.decode, 0#11) := by
  simp [exec, execValidate, frameOk_of_zeros s h, got]
theorem test_validate_drops_one_bad_packet :
    got (exec .validate { st .validate with frame := Memory.write zeroFrame 20 1#8, count := 1980#11 })
      (fun t => (t.phase, t.count, t.trace)) = some (.top, 0#11, [.drop .checksum]) := by decide +kernel
theorem test_decode_writes_only_valid_of_a_skipped_chunk :
    got (exec .decode zeroAccepted) (fun t => (t.phase, (Bank.cell (t.bank 0#1) 359).valid)) =
      some (.publish, some false) := by
  have h : zeroAccepted.skipped (packetOf 359) (chunkOf 359) = true := by decide +kernel
  simp only [exec, execDecode, got, State.setPhase_phase, Option.some.injEq, Prod.mk.injEq, true_and]
  change (Bank.cell ((zeroAccepted.putBank 0#1 (zeroAccepted.decodedBank (zeroAccepted.bank 0#1))).bank 0#1) 359).valid = _
  rw [State.bank_putBank_same, cell_decodedBank, if_pos (by decide), decodedCell_valid, h]
  rfl

/-! ### Witnesses: concrete states and operands that meet the hypotheses of each statement -/

theorem witness_EncodeOfDecodeIsIdentity : decode (.command 0x40001167#32) = .instr (.readPoint 1#1 359#9) := rfl

theorem witness_CommandRowsSelectTheDecodedWord :
    decode (.command 0x80000000#32) = .instr (.setTarget 0#16)
    ∧ decode (.command 0xA0000001#32) = .instr (.setCb 1#1)
    ∧ decode (.command 0x400011FF#32) = .instr (.readPoint 1#1 511#9)
    ∧ decode (.command 0xBFFFFFFF#32) = .rejected (.reservedBitSet 11#4) := ⟨rfl, rfl, rfl, rfl⟩

theorem witness_IllegalWordsChangeNothing :
    illegalWords.all illegalCommand = true
    ∧ (st .hunt).setTurns [.host 0x40000168#32] = { st .hunt with turns := .host 0x40000168#32 :: [] } :=
  ⟨by decide +kernel, rfl⟩

theorem witness_LegalWordsAreNeverRefused :
    illegalCommand 0x40000167#32 = false ∧ illegalCommand 0x8000FFFF#32 = false
    ∧ ((st .hunt).setTurns [.host 0x40000167#32]).turns = .host 0x40000167#32 :: [] :=
  ⟨by decide +kernel, by decide +kernel, rfl⟩

theorem witness_ExecStopsOnlyHere :
    exec (.payloadByte 0#8) { st .payload with count := 1980#11 } = .fault (.noFrameByte 1980#11)
    ∧ exec .adjust { st .adjust with params := { Config.params with gainNum := 65536 } } = .refused .gainOutsideSpec
    ∧ exec .adjust { st .adjust with params := { Config.params with gainDen := 0 } } = .refused .gainOutsideSpec :=
  ⟨rfl, rfl, rfl⟩

/-- One state for each kind of turn, a poll in IDLE and one while acquisition runs. -/
theorem witness_StepRunsTheDecodedInstruction :
    (((st .hunt).setTurns [.host 0x20000000#32]).turns = .host 0x20000000#32 :: []
      ∧ decode (.command 0x20000000#32) = .instr .stop)
    ∧ ((st .top).ls = (st .top).phase.lifecycle ∧ (st .top).phase.hasInternalStep = true
      ∧ decode (.phaseOnly (st .top).phase.code) = .instr .top)
    ∧ ((st .hunt).ls = (st .hunt).phase.lifecycle ∧ (st .hunt).phase.takesToken = true
      ∧ ((st .hunt).setRx [0x1FF#9]).rx = 0x1FF#9 :: []
      ∧ decode (.phaseToken (cat 13 (st .hunt).phase.code 0x1FF#9)) = .instr (.huntShort 0xFF#8))
    ∧ ((st .hunt).setTurns [.answer (.gpioInit false)]).turns = .answer (.gpioInit false) :: []
    ∧ ((st .hunt).setTurns [.pollIdle]).turns = .pollIdle :: [] ∧ (st .hunt).ls ≠ .idle
    ∧ (State.reset.setTurns [.pollIdle]).turns = .pollIdle :: [] ∧ State.reset.ls = .idle :=
  ⟨⟨rfl, rfl⟩, ⟨rfl, rfl, rfl⟩, ⟨rfl, rfl, rfl, by decide⟩, rfl, rfl, by decide, rfl, rfl⟩

theorem witness_StalledTransportHoldsTheEngine :
    (st .payload).ls = .running ∧ (st .payload).phase.takesToken = true ∧ (st .payload).rx = []
    ∧ (st .payload).turns.head? ≠ some .powerOn ∧ step (st .payload) = .next (st .payload) :=
  ⟨rfl, rfl, rfl, by decide, rfl⟩

theorem witness_HeldAgentsChangeNothing :
    ((st .waitAck).ls = (st .waitAck).phase.lifecycle ∧ (st .waitAck).phase.hasInternalStep = false
      ∧ (st .waitAck).phase.takesToken = false)
    ∧ ((st .hunt).ls = (st .hunt).phase.lifecycle ∧ (st .hunt).phase.hasInternalStep = false ∧ (st .hunt).rx = [])
    ∧ ((st .hunt).setTurns [.transport]).turns = .transport :: []
    ∧ ((st .waitAck).setTurns [.engine]).turns = .engine :: [] :=
  ⟨⟨rfl, rfl, rfl⟩, ⟨rfl, rfl, rfl⟩, rfl, rfl⟩

/-- One step by the acknowledgement and one by another command. -/
theorem witness_WaitAckIsLeftOnlyByScanAck :
    (st .waitAck).ls = .running ∧ (st .waitAck).phase = .waitAck
    ∧ got (step ((st .waitAck).setTurns [.host 0xB0000000#32])) (·.phase) = some .top
    ∧ got (step ((st .waitAck).setTurns [.host 0x20000000#32])) (·.phase) = some .waitAck :=
  ⟨rfl, rfl, by decide +kernel, by decide +kernel⟩

/-- The first byte, the last but one and the last. -/
theorem witness_PayloadByteStoresAtCount :
    (st .payload).phase = .payload
    ∧ (2#11).toNat < 1980 ∧ (1978#11).toNat + 1 ≠ 1980 ∧ (1979#11).toNat + 1 = 1980 := by
  refine ⟨rfl, ?_, ?_, ?_⟩ <;> norm_num

/-- Every row of the table of R122, at the ends of the range of `COUNT`. -/
theorem witness_SynchronizerTableIsComplete :
    ([(Phase.hunt, 0, 0x0FA#9), (.hunt, 0, 0x000#9), (.hunt, 0, 0x1FA#9), (.hdr1, 1, 0x0A0#9)
      , (.hdr1, 1, 0x0FA#9), (.hdr1, 1, 0x000#9), (.hdr1, 1, 0x100#9), (.payload, 2, 0x000#9)
      , (.payload, 1979, 0x0FF#9), (.payload, 1979, 0x100#9)].map fun c =>
        (c.1.takesToken && countLegal c.1 (BitVec.ofNat 11 c.2.1), syncTable Config.params c.1 c.2.1 c.2.2))
    = [(true, .hdr1, 1), (true, .hunt, 0), (true, .hunt, 0), (true, .payload, 2), (true, .hdr1, 1)
      , (true, .hunt, 0), (true, .hunt, 0), (true, .payload, 3), (true, .validate, 1980), (true, .top, 0)] := by
  decide +kernel

theorem witness_WholeFrameIsCollected :
    ∃ (s : State) (bytes : List Byte) (rest : List Turn) (more : List Token),
      s.ls = .running ∧ s.phase = .hunt ∧ bytes.length = 1980
      ∧ bytes.getD 0 0#8 = s.params.hdr0 ∧ bytes.getD 1 0#8 = s.params.hdr1
      ∧ s.turns = List.replicate 1980 .transport ++ rest
      ∧ s.rx = bytes.map (fun d => d.setWidth 9) ++ more :=
  ⟨{ st .hunt with
      turns := List.replicate 1980 .transport ++ [.engine]
      rx := (0xFA#8 :: 0xA0#8 :: List.replicate 1978 0xFA#8).map (fun d => d.setWidth 9) ++ [0x100#9] },
    0xFA#8 :: 0xA0#8 :: List.replicate 1978 0xFA#8, [.engine], [0x100#9], rfl, rfl,
    by rw [List.length_cons, List.length_cons, List.length_replicate], rfl, rfl, rfl, rfl⟩

/-- A byte that is a fresh candidate and one that is not. -/
theorem witness_ResynchronizationForgetsThePast :
    (st .hdr1).params = (st .hunt).params ∧ (st .hdr1).phase = .hdr1 ∧ (st .hunt).phase = .hunt
    ∧ (st .hunt).count = 0#11 ∧ 0xFA#8 ≠ (st .hdr1).params.hdr1 ∧ 0x11#8 ≠ (st .hdr1).params.hdr1 :=
  ⟨rfl, rfl, rfl, rfl, by decide, by decide⟩

theorem witness_ChecksumCompareIsSixteenBits :
    (((zeroAccepted.putFrame 20 0x83#8).putFrame 21 0xF6#8).stored 0).getLsbD 15 = true := by decide +kernel

/-- A frame that passes, and one with a bad packet. -/
theorem witness_ValidateIsAllOrNothing :
    (∀ p, p < 90 → zeroAccepted.pass p = true)
    ∧ ∃ p, p < 90 ∧ ({ st .validate with frame := Memory.write zeroFrame 20 1#8 } : State).pass p = false := by
  refine ⟨fun p hp => ?_, 0, by decide, by decide +kernel⟩
  have h := frameOk_of_zeros zeroAccepted zeroAccepted_frameByte
  unfold State.frameOk at h
  exact List.all_eq_true.mp h p (List.mem_range.mpr hp)

/-- The ends of the checksum words and of the stored checksum, with the highest and the lowest bit. -/
theorem witness_SingleBitErrorsAreCaught :
    ∀ c ∈ [(0, 0), (19, 7), (20, 0), (21, 7)],
      c.1 < 22 ∧ c.2 < 8 ∧ zeroAccepted.pass 0 = true ∧ (c.1 < 20 ∨ 20 ≤ c.1) := by
  have h := witness_ValidateIsAllOrNothing.1 0 (by decide)
  intro c hc
  refine ⟨?_, ?_, h, by omega⟩ <;> revert c <;> decide

/-- The last words and bits the rule admits, `i = 8` and `b = 14`. -/
theorem witness_SomeTwoBitErrorsPass : ∃ s t : State,
    (s.word 0 8).getLsbD 14 = false ∧ (s.word 0 9).getLsbD 15 = true
    ∧ t.word 0 8 = s.word 0 8 ||| BitVec.twoPow 16 14
    ∧ t.word 0 9 = s.word 0 9 &&& ~~~(BitVec.twoPow 16 15)
    ∧ ∀ n, n ≠ 8 → n ≠ 9 → t.word 0 n = s.word 0 n := by
  refine ⟨zeroAccepted.putFrame 19 0x80#8, (zeroAccepted.putFrame 19 0#8).putFrame 17 0x40#8,
    by decide +kernel, by decide +kernel, by decide +kernel, by decide +kernel, fun n h8 h9 => ?_⟩
  simp only [State.word, State.le16, packetBase]
  rw [State.frameByte_putFrame_other _ _ (by omega), State.frameByte_putFrame_other _ _ (by omega),
    State.frameByte_putFrame_other _ _ (by omega), State.frameByte_putFrame_other _ _ (by omega),
    State.frameByte_putFrame_other _ _ (by omega), State.frameByte_putFrame_other _ _ (by omega)]

theorem witness_AllZeroPacketPasses :
    (∀ off, off < 22 → zeroAccepted.frameByte (22 * 89 + off) = 0#8)
    ∧ zeroAccepted.Inv ∧ zeroAccepted.phase = .decode ∧ (∀ off, off < 22 → zeroAccepted.frameByte off = 0#8) :=
  ⟨fun off h => zeroAccepted_frameByte _ (by omega), zeroAccepted_inv, rfl,
    fun off h => zeroAccepted_frameByte _ (by omega)⟩

theorem witness_ConverterIsExact :
    (Config.params.statedWidths ∧ 359 < 360 ∧ 16383#14 ≠ 0#14) ∧ cosv Config.params 90 = 0
    ∧ sinv Config.params 180 = 0 ∧ cosv Config.params 359 = -4193665 ∧ sinv Config.params 359 = 73201 :=
  ⟨⟨⟨rfl, rfl, rfl⟩, by decide, by decide⟩, by decide +kernel⟩

/-- The ends of the ROM, of the distance and of the index. -/
theorem witness_ConverterIsAccurate :
    Config.params.statedWidths ∧ (0 ≤ 90 ∧ 90 ≤ 90) ∧ (0 < 360 ∧ 359 < 360)
    ∧ qw Config.params 0 = 0 ∧ qw Config.params 90 = 4194304
    ∧ cosv Config.params 0 = -4194304 ∧ cosv Config.params 180 = 4194304 ∧ sinv Config.params 270 = 4194304
    ∧ product Config.params 16383#14 (cosv Config.params 180) = 68715282432#40 :=
  ⟨⟨rfl, rfl, rfl⟩, by decide, by decide, by decide +kernel⟩

/-- The largest legal index and the smallest illegal one, each clause. -/
theorem witness_ReadPointAnswers :
    (360 ≤ (360#9).toNat ∧ 360 ≤ (511#9).toNat)
    ∧ ((359#9).toNat < 360 ∧ (st .top).ls ≠ .idle ∧ 0#1 = (st .top).wrSel)
    ∧ (0#9).toNat < 360 ∧ (State.reset.ls = .idle ∧ 1#1 ≠ (st .top).wrSel) := by decide +kernel

theorem witness_OnlyDecodeAndStartWriteTheScanRam :
    (∃ t, exec .decode zeroAccepted = .next t) ∧ (∃ t, exec .start State.reset = .next t)
    ∧ ∃ t, exec .publish (st .publish) = .next t := ⟨⟨_, rfl⟩, ⟨_, rfl⟩, _, rfl⟩

theorem witness_CallbackBankIsTheSnapshotBank :
    gainInSpec (st .publish).params = true ∧ ({ st .publish with cbEn := true } : State).cbEn = true :=
  ⟨by decide, rfl⟩

/-- A tie on each side of zero. -/
theorem witness_RoundHalfAwayIsNearest :
    (0 < 2 ∧ 2 * |roundHalfAway 5 2 * (2 : Nat) - 5| = (2 : Nat))
    ∧ 2 * |roundHalfAway (-5) 2 * (2 : Nat) - (-5)| = (2 : Nat) := by decide +kernel

theorem witness_AdjustMovesTheDrive :
    gainInSpec (st .adjust).params = true
    ∧ gainInSpec { Config.params with gainNum := 65535, gainDen := 1 } = true := by decide

/-- A revolution slower than the target, faster, and on it. -/
theorem witness_DriveMovesTowardTheTarget :
    (st .adjust).drive.toNat ≤ maxPwm (st .adjust).pwmRange.toNat
    ∧ (got (exec .adjust (st .adjust)) (·.phase)).isSome = true
    ∧ (1439999#23).toNat < 90 * (st .adjust).target.toNat
    ∧ 90 * (st .adjust).target.toNat < (1440001#23).toNat
    ∧ (1440000#23).toNat = 90 * (st .adjust).target.toNat :=
  ⟨by decide, by decide +kernel, by norm_num [st, State.reset, Config.params],
    by norm_num [st, State.reset, Config.params], by norm_num [st, State.reset, Config.params]⟩

theorem witness_StartWhileNotIdleIsANoOp : (st .top).ls ≠ .idle ∧ (st .stopseq).ls ≠ .idle := by decide

/-- The smallest and the largest legal range, the window of `set_range` at its ends. -/
theorem witness_StartWithGoodAnswersRuns :
    State.reset.ls = .idle ∧ State.reset.params.rangeMin ≤ 25 ∧ 65535 ≤ 65535
    ∧ (withAnswers State.reset true true 256 (some 25)).answers
      = { transportOpen := some true, gpioInit := some true, realRange := some 256
          range := some (some ((25 : Nat) : Int)) }
    ∧ (withAnswers State.reset true true 20000 (some 65535)).answers
      = { transportOpen := some true, gpioInit := some true, realRange := some 20000
          range := some (some ((65535 : Nat) : Int)) } :=
  ⟨rfl, by decide, by decide, rfl, rfl⟩

theorem witness_StartInIdleRunsOrIsFatal : State.reset.ls = .idle := rfl

/-- Each fatal answer, the range at both ends and at FAIL. -/
theorem witness_FatalStartReleasesWhatItAcquired :
    State.reset.ls = .idle
    ∧ [withAnswers State.reset false true 200 (some 200), withAnswers State.reset true false 200 (some 200)
      , withAnswers State.reset true true 255 (some 24), withAnswers State.reset true true 19999 (some 65536)
      , withAnswers State.reset true true 200 none].map (fun s => got (exec .start s) (·.err))
      = [some .transportOpen, some .gpioInit, some .pwmRange, some .pwmRange, some .pwmRange] := by
  decide +kernel

theorem witness_TopReadsTheStopFlag :
    (st .top).stopReq = false ∧ ({ st .top with stopReq := true } : State).stopReq = true := ⟨rfl, rfl⟩

theorem witness_NotifyAndScanAckHandshake :
    (st .notify).cbEn = false ∧ ({ st .notify with cbEn := true } : State).cbEn = true
    ∧ (st .waitAck).phase = .waitAck ∧ (st .hunt).phase ≠ .waitAck := ⟨rfl, rfl, rfl, by decide⟩

/-- Each arc of the table. -/
theorem witness_LifecycleMovesOnlyByTheTable :
    (∀ p ∈ [Phase.idle, .top, .stopseq], (st p).ls = (st p).phase.lifecycle)
    ∧ got (step ((withAnswers State.reset true true 200 (some 200)).setTurns [.host 0x10000000#32])) (·.ls)
      = some .running
    ∧ got (step { st .top with stopReq := true }) (·.ls) = some .stopping
    ∧ got (step (st .stopseq)) (·.ls) = some .idle :=
  ⟨by decide, by decide +kernel, by decide +kernel, by decide +kernel⟩

/-- The exits of an iteration: a stop, a short read, a bad packet, a notification, its acknowledgement. -/
theorem witness_PhaseMovesInTheOrder :
    (∀ p ∈ [Phase.top, .payload, .validate, .notify, .waitAck], (st p).ls = .running ∧ (st p).turns.head? ≠ some .powerOn)
    ∧ got (step { st .top with stopReq := true }) (·.phase) = some .stopseq
    ∧ got (step ((st .payload).setRx [0x100#9])) (·.phase) = some .top
    ∧ got (step { st .validate with frame := Memory.write zeroFrame 20 1#8, count := 1980#11 }) (·.phase) = some .top
    ∧ got (step { st .notify with cbEn := true }) (·.phase) = some .waitAck
    ∧ got (step ((st .waitAck).setTurns [.host 0xB0000000#32])) (·.phase) = some .top :=
  ⟨by decide, by decide +kernel, by decide +kernel, by decide +kernel, by decide +kernel, by decide +kernel⟩

theorem witness_EachRegisterHasItsWriters :
    (∃ t, exec (.huntByte 0xFA#8) (st .hunt) = .next t) ∧ ∃ t, exec (.setCb 1#1) (st .waitAck) = .next t :=
  ⟨⟨_, rfl⟩, _, rfl⟩

theorem witness_PendingStopReachesIdle :
    (st .top).ls = .running ∧ (st .top).phase = .top ∧ ({ st .top with stopReq := true } : State).stopReq = true
    ∧ ((st .top).setTurns [.engine, .engine]).turns = .engine :: .engine :: [] := ⟨rfl, rfl, rfl, rfl⟩

theorem witness_RunReachesAWaitingPhase :
    (st .validate).ls = (st .validate).phase.lifecycle ∧ gainInSpec (st .validate).params = true
    ∧ ((st .validate).setTurns (List.replicate runTurns .engine ++ [])).turns
      = List.replicate runTurns .engine ++ [] := ⟨rfl, by decide, rfl⟩

theorem witness_StopCommutesWithTheFrame : ∃ a b : State,
    Instr.isEngineStep .publish = true ∧ (st .publish).ls = .running
    ∧ exec .stop (st .publish) = .next a ∧ exec .publish a = .next b := ⟨_, _, rfl, rfl, rfl, rfl⟩

theorem witness_PowerOnResetAtAnyTime :
    ((st .payload).setTurns [.powerOn]).turns = .powerOn :: [] := rfl

/-- A state that is not reset's, and the step it takes. -/
theorem witness_StepKeepsTheInvariant : zeroAccepted.Inv ∧ ∃ t, step zeroAccepted = .next t :=
  ⟨zeroAccepted_inv, _, rfl⟩

theorem witness_InvariantStatesNeverStop : zeroAccepted.Inv ∧ gainInSpec zeroAccepted.params = true :=
  ⟨zeroAccepted_inv, by decide⟩

/-! ### One whole iteration, for the statement between two PUBLISH steps -/

theorem run_add (m n : Nat) (s t : State) (h : Host.Core.run Sys2Proof.core m s = .next t) :
    Host.Core.run Sys2Proof.core (m + n) s = Host.Core.run Sys2Proof.core n t := by
  induction m generalizing s with
  | zero => rw [Nat.zero_add]; cases h; rfl
  | succ m ih =>
    rw [Nat.succ_add]
    simp only [Host.Core.run] at h ⊢
    split at h
    · exact ih _ h
    · cases h
    · cases h

theorem step_payload_zero (s : State) (more : List Token) (hl : s.ls = .running) (hp : s.phase = .payload)
    (ht : s.turns = []) (hr : s.rx = 0#9 :: more) (hc : s.count.toNat < 1980) :
    step s = .next ((s.setRx more).payloadByte 0#8) := by
  have hf : fetch s = .input (.phaseToken (cat 13 s.phase.code 0#9)) (s.setRx more) := by
    simp [fetch, ht, fetchUnscheduled, fetchToken, State.pairLegal, hl, hp, hr, Phase.takesToken,
      Phase.lifecycle]
  have hd := decode_token s.phase 0#9 (by rw [hp]; rfl)
  rw [step, hf]
  simp only [runInput, hd]
  simp [hp, tokenInstr, exec, execPayloadByte, Config.frameSize, hc]

/-- Zero bytes to the end of the payload. -/
theorem collect_zeros (n : Nat) (s : State) (hn : n ≠ 0) (hl : s.ls = .running) (hp : s.phase = .payload)
    (ht : s.turns = []) (hr : s.rx = List.replicate n 0#9) (hc : s.count.toNat + n = 1980)
    (hz : ∀ i, i < s.count.toNat → s.frameByte i = 0#8) :
    ∃ t, Host.Core.run Sys2Proof.core n s = .next t ∧ t.ls = .running ∧ t.phase = .validate ∧ t.turns = []
      ∧ ∀ i, i < 1980 → t.frameByte i = 0#8 := by
  induction n generalizing s with
  | zero => exact absurd rfl hn
  | succ n ih =>
    have hs := step_payload_zero s _ hl hp ht (by rw [hr, List.replicate_succ]) (by omega)
    have hcount : (s.count + 1#11).toNat = s.count.toNat + 1 := by
      rw [BitVec.toNat_add, BitVec.toNat_ofNat]; omega
    set u := (s.setRx (List.replicate n 0#9)).payloadByte 0#8 with hu
    have hrun : Host.Core.run Sys2Proof.core (n + 1) s = Host.Core.run Sys2Proof.core n u := by
      simp only [Host.Core.run, core, hs]
    have hframe : ∀ i, i < s.count.toNat + 1 → u.frameByte i = 0#8 := by
      intro i hi
      have he : u.frameByte i = ((s.setRx (List.replicate n 0#9)).putFrame s.count.toNat 0#8).frameByte i := by
        simp only [hu, State.payloadByte]; split <;> rfl
      rw [he]
      by_cases h : i = s.count.toNat
      · subst h; exact State.frameByte_putFrame_same _ _ _
      · rw [State.frameByte_putFrame_other _ _ h]
        exact (State.frameByte_congr _ _ rfl rfl i).trans (hz i (by omega))
    by_cases h0 : n = 0
    · subst h0
      refine ⟨u, hrun, ?_, ?_, ?_, fun i hi => hframe i (by omega)⟩ <;>
        simp [hu, State.payloadByte, Config.frameSize, hcount, show s.count.toNat + 1 = 1980 by omega, hl, ht]
    · have hne : ¬ s.count.toNat + 1 = 1980 := by omega
      rw [hrun]
      have huc : u.count = s.count + 1#11 := by
        simp [hu, State.payloadByte, Config.frameSize, hcount, hne]
      apply ih u h0
      · simp [hu, State.payloadByte, Config.frameSize, hcount, hne, hl]
      · simp [hu, State.payloadByte, Config.frameSize, hcount, hne, hp]
      · simp [hu, State.payloadByte, Config.frameSize, hcount, hne, ht]
      · simp [hu, State.payloadByte, Config.frameSize, hcount, hne]
      · rw [huc, hcount]; omega
      · rw [huc, hcount]; exact hframe

/-- Right after a PUBLISH, with a frame of zero bytes to come. -/
def beforeZeros (more : List Token) : State :=
  { st .adjust with params := zeroParams, rx := 0#9 :: 0#9 :: more }

def zeros : State := beforeZeros (List.replicate 1978 0#9)

def isNext : Out → Bool
  | .next _ => true
  | _ => false

def nextOf (o : Out) (s : State) : State :=
  match o with
  | .next t => t
  | _ => s

theorem next_nextOf (o : Out) (s : State) (h : isNext o = true) : o = .next (nextOf o s) := by
  cases o <;> simp_all [isNext, nextOf]

/-- ADJUST, NOTIFY, TOP and the two header bytes later. -/
def afterHeader : State := nextOf (Host.Core.run Sys2Proof.core 5 zeros) zeros

theorem zeros_run : Host.Core.run Sys2Proof.core 5 zeros = .next afterHeader :=
  next_nextOf _ _ (by decide +kernel)

theorem afterHeader_fields : afterHeader.ls = .running ∧ afterHeader.phase = .payload
    ∧ afterHeader.turns = [] ∧ afterHeader.rx = List.replicate 1978 0#9 ∧ afterHeader.count = 2#11
    ∧ afterHeader.frame = [(0, 0#8), (1, 0#8)] := by decide +kernel

theorem witness_BetweenPublishesLieAFrameOfBytes : ∃ (n : Nat) (s t : State),
    s.phase = .adjust ∧ Host.Core.run Sys2Proof.core n s = .next t ∧ t.phase = .publish := by
  obtain ⟨h1, h2, h3, h4, h5, h6⟩ := afterHeader_fields
  obtain ⟨b, hb, g1, g2, g3, g4⟩ := collect_zeros 1978 afterHeader (by decide) h1 h2 h3 h4 (by rw [h5]; rfl) (by
    intro i hi
    rw [h5] at hi
    have hi : i < 2 := hi
    interval_cases i
    · simp only [State.frameByte, h6]; rfl
    · simp only [State.frameByte, h6]; rfl)
  have hv : step b = .next ((b.setCount 0#11).setPhase .decode) := by
    simp [step, fetch, g3, fetchUnscheduled, fetchInternal, State.pairLegal, g1, g2, Phase.takesToken,
      Phase.hasInternalStep, Phase.lifecycle, runInput, decode, decodePhaseOnly, Phase.code, exec, execValidate,
      frameOk_of_zeros b g4]
  set c := (b.setCount 0#11).setPhase .decode with hc
  have hd : ∃ d, step c = .next d ∧ d.phase = .publish := by
    have hf : fetch c = .input (.phaseOnly Phase.decode.code) c := by
      have k1 : c.turns = [] := g3
      have k2 : c.ls = .running := g1
      have k3 : c.phase = .decode := rfl
      simp [fetch, k1, k2, k3, fetchUnscheduled, fetchInternal, State.pairLegal, Phase.takesToken,
        Phase.hasInternalStep, Phase.lifecycle]
    refine ⟨_, by rw [step, hf]; rfl, ?_⟩
    simp
  obtain ⟨d, hd, hp⟩ := hd
  refine ⟨5 + (1978 + 2), zeros, d, rfl, ?_, hp⟩
  rw [run_add 5 _ _ afterHeader zeros_run, run_add 1978 _ _ b hb]
  simp only [Host.Core.run, core, hv, hd]

end Sys2Proof.Tests
end

/-! Rounding to the nearest integer (R10). The size of the rounded value is one natural quotient, so the two
bounds of that division place it; the sign only mirrors the picture. -/

namespace Sys2Proof.Proofs

open Sys2Proof.Machine

theorem roundHalfAway_of_nonneg {n : Int} (d : Nat) (hn : 0 ≤ n) :
    roundHalfAway n d = ((2 * n.natAbs + d) / (2 * d) : Nat) := if_pos hn

theorem roundHalfAway_of_neg {n : Int} (d : Nat) (hn : n < 0) :
    roundHalfAway n d = -((2 * n.natAbs + d) / (2 * d) : Nat) := if_neg hn.not_ge

/-- The formula of R10 over the integers. -/
theorem roundHalfAway_eq_sign_mul (n : Int) (d : Nat) :
    roundHalfAway n d = (if 0 ≤ n then 1 else -1) * ((2 * |n| + (d : Int)) / (2 * (d : Int))) := by
  rcases le_or_gt 0 n with hn | hn
  · simp [roundHalfAway_of_nonneg d hn, hn]
  · simp [roundHalfAway_of_neg d hn, hn.not_ge]

theorem natAbs_roundHalfAway (n : Int) (d : Nat) :
    (roundHalfAway n d).natAbs = (2 * n.natAbs + d) / (2 * d) := by
  rcases le_or_gt 0 n with hn | hn
  · rw [roundHalfAway_of_nonneg d hn, Int.natAbs_natCast]
  · rw [roundHalfAway_of_neg d hn, Int.natAbs_neg, Int.natAbs_natCast]

/-- The rounded value lies on the side of `n`, so its distance from `n / d` is one of sizes. -/
theorem abs_roundHalfAway_mul_sub (n : Int) (d : Nat) :
    |roundHalfAway n d * d - n| = |(|roundHalfAway n d| * d - |n|)| := by
  rcases le_or_gt 0 n with hn | hn
  · have hr : 0 ≤ roundHalfAway n d := by
      rw [roundHalfAway_of_nonneg d hn]; exact Int.natCast_nonneg _
    rw [abs_of_nonneg hr, abs_of_nonneg hn]
  · have hr : roundHalfAway n d ≤ 0 := by
      rw [roundHalfAway_of_neg d hn]; exact Int.neg_nonpos_of_nonneg (Int.natCast_nonneg _)
    rw [abs_of_nonpos hr, abs_of_neg hn, ← abs_neg]
    congr 1
    ring

/-- Half a divisor is added before the division rounds down: the size is at most half a divisor above `|n|`,
and less than half a divisor below it. -/
theorem abs_roundHalfAway_mul_bounds (n : Int) {d : Nat} (hd : 0 < d) :
    2 * |n| - d < 2 * (|roundHalfAway n d| * d) ∧ 2 * (|roundHalfAway n d| * d) ≤ 2 * |n| + d := by
  have hle := Nat.div_mul_le_self (2 * n.natAbs + d) (2 * d)
  have hlt := Nat.lt_div_mul_add (a := 2 * n.natAbs + d) (b := 2 * d) (by omega)
  rw [← natAbs_roundHalfAway, Nat.mul_left_comm] at hle hlt
  rw [Int.abs_eq_natAbs, Int.abs_eq_natAbs]
  omega

/-- Settles O39: nearness is the two bounds of the division, and a tie can only meet the upper one. -/
theorem roundHalfAwayIsNearest : Obligations.RoundHalfAwayIsNearest := by
  intro n d hd
  obtain ⟨hlow, hhigh⟩ := abs_roundHalfAway_mul_bounds n hd
  have hpos : (0 : Int) < d := Int.natCast_pos.mpr hd
  rw [abs_roundHalfAway_mul_sub]
  refine ⟨roundHalfAway_eq_sign_mul n d, ?nearest, fun htie => ?tie⟩
  case nearest =>
    rcases abs_cases (|roundHalfAway n d| * d - |n|) with ⟨habove, -⟩ | ⟨hbelow, -⟩ <;> linarith
  case tie =>
    rcases abs_cases (|roundHalfAway n d| * d - |n|) with ⟨habove, -⟩ | ⟨hbelow, -⟩
    · linarith
    · have hopen : 2 * |n| - d = 2 * (|roundHalfAway n d| * d) := by linarith
      exact absurd hopen hlow.ne

end Sys2Proof.Proofs

/-! The word of READ_STATUS (R35, R176). `STATUS` is a nest of concatenations, so a field at a place is found by
going down the nest: each concatenation hands a field that lies in one of its halves on to that half, and `simp`
follows it from half to half. -/

namespace Sys2Proof.Proofs

open Sys2Proof.Machine

section Concatenation

variable {m n w start len : Nat} (a : BitVec m) (b : BitVec n)

/-- A field below the seam of a concatenation is a field of the low half. -/
@[simp] theorem extractLsb'_cat_below (hn : start + len ≤ n) (hw : start + len ≤ w) :
    (cat w a b).extractLsb' start len = b.extractLsb' start len := by
  ext i hi
  simp [show start + i < w by omega, show start + i < n by omega]

/-- A field above the seam of a concatenation is a field of the high half. -/
@[simp] theorem extractLsb'_cat_above (hn : n ≤ start) (hw : start + len ≤ w) :
    (cat w a b).extractLsb' start len = a.extractLsb' (start - n) len := by
  ext i hi
  simp [show start + i < w by omega, show ¬ start + i < n by omega,
    show start + i - n = start - n + i by omega]

end Concatenation

/-! ### The fields of STATUS, one lemma per row of R35's table; `LS` is `State.statusWord_ls` -/

theorem statusWord_wrSel (s : State) : s.statusWord.extractLsb' 2 1 = s.wrSel := by
  simp [State.statusWord]

theorem statusWord_stable (s : State) : s.statusWord.extractLsb' 3 1 = s.stable := by
  simp [State.statusWord]

theorem statusWord_stopReq (s : State) : s.statusWord.getLsbD 4 = s.stopReq := by
  simp [State.statusWord]

theorem statusWord_scanReady (s : State) : s.statusWord.getLsbD 5 = s.scanReady := by
  simp [State.statusWord]

theorem statusWord_cbEn (s : State) : s.statusWord.getLsbD 6 = s.cbEn := by
  simp [State.statusWord]

theorem statusWord_reserved_7 (s : State) : s.statusWord.getLsbD 7 = false := by
  simp [State.statusWord]

theorem statusWord_err (s : State) : s.statusWord.extractLsb' 8 4 = s.err.code := by
  simp [State.statusWord]

theorem statusWord_phase (s : State) : s.statusWord.extractLsb' 12 4 = s.phase.code := by
  simp [State.statusWord]

theorem statusWord_count (s : State) : s.statusWord.extractLsb' 16 11 = s.count := by
  simp [State.statusWord]

theorem statusWord_reserved_31_27 (s : State) : s.statusWord.extractLsb' 27 5 = 0#5 := by
  simp [State.statusWord]

/-! ### The answer -/

/-- A response is observed and nothing else happens (R94). -/
theorem effect_respond (s : State) (status : RespStatus) (data : List Word) :
    Effect s (s.respond status data) s.regs [.response status.code data] where
  regs := rfl
  memory := ⟨State.frameByte_congr s _ rfl rfl, State.scanEntry_congr s _ rfl rfl rfl⟩
  trace := rfl
  world := ⟨rfl, rfl, rfl, rfl, rfl⟩

theorem exec_readStatus (s : State) : exec .readStatus s = .next (s.respond .ok [s.statusWord]) := rfl

/-- Settles O33: the answer is `STATUS` itself, whose fields are read off one by one. -/
theorem statusWordHasEveryField : Obligations.StatusWordHasEveryField := fun s =>
  ⟨_, s.statusWord, exec_readStatus s, effect_respond s .ok _, s.statusWord_ls, statusWord_wrSel s,
    statusWord_stable s, statusWord_stopReq s, statusWord_scanReady s, statusWord_cbEn s,
    statusWord_reserved_7 s, statusWord_err s, statusWord_phase s, statusWord_count s,
    statusWord_reserved_31_27 s⟩

end Sys2Proof.Proofs

/-! Illegal command words (R95). A word that decodes to an instruction is that instruction's encoding, so the row
of its mnemonic selects it. Hence a word that no named row selects decodes to a reserved instruction or to none,
and a READ_POINT out of range decodes to itself: each of these answers BADCMD. -/

namespace Sys2Proof.Proofs

open Sys2Proof.Machine

/-! ### Splitting a command word into its fields -/

/-- Two adjacent fields that make up a word give it back. -/
theorem cat_extractLsb' {w m n : Nat} (c : BitVec w) (h : m + n = w) :
    cat w (c.extractLsb' n m) (c.extractLsb' 0 n) = c := by
  ext i hi
  by_cases hlow : i < n
  · simp [hlow, hi]
  · simp [hlow, hi, show i - n < m by omega, show n + (i - n) = i by omega]

theorem commandWord_eq {c : Word} {o : BitVec 4} {x : BitVec 28} (ho : (opcodeOf c).toNat = o.toNat)
    (hx : c.extractLsb' 0 28 = x) : commandWord o x = .command c := by
  rw [commandWord, ← BitVec.eq_of_toNat_eq ho, ← hx, opcodeOf, cat_extractLsb' c rfl]

/-- The opcodes 0xC to 0xF have both high bits set. -/
theorem reservedCF_word {c : Word} (h : 12 ≤ (opcodeOf c).toNat) :
    cat 32 0x3#2 (c.extractLsb' 0 30) = c := by
  have hhigh : c.extractLsb' 30 2 = 0x3#2 := by
    apply BitVec.eq_of_toNat_eq
    simp [opcodeOf] at h ⊢
    omega
  rw [← hhigh, cat_extractLsb' c rfl]

theorem operands_readPoint {c : Word} (h : c.extractLsb' 13 15 ++ c.extractLsb' 9 3 = 0#18) :
    c.extractLsb' 0 28
      = cat 28 (cat 16 0#15 (c.extractLsb' 12 1)) (cat 12 0#3 (c.extractLsb' 0 9)) := by
  have hcat : cat 18 (c.extractLsb' 13 15) (c.extractLsb' 9 3) = 0#18 := (BitVec.setWidth_eq _).trans h
  have hval := congrArg BitVec.toNat hcat
  apply BitVec.eq_of_toNat_eq
  simp [toNat_cat, Nat.shiftRight_eq_div_pow] at hval ⊢
  omega

theorem operands_setTarget {c : Word} (h : c.extractLsb' 16 12 = 0#12) :
    c.extractLsb' 0 28 = (c.extractLsb' 0 16).setWidth 28 := by
  have hval := congrArg BitVec.toNat h
  apply BitVec.eq_of_toNat_eq
  simp at hval ⊢
  omega

theorem operands_setCb {c : Word} (h : c.extractLsb' 1 27 = 0#27) :
    c.extractLsb' 0 28 = (c.extractLsb' 0 1).setWidth 28 := by
  have hval := congrArg BitVec.toNat h
  apply BitVec.eq_of_toNat_eq
  simp at hval ⊢
  omega

/-! ### What the decoder answers to a command word -/

theorem ifReservedZero_eq_instr {n : Nat} {c : Word} {r : BitVec n} {i j : Instr} :
    ifReservedZero c r i = .instr j ↔ r = 0#n ∧ i = j := by
  by_cases hr : r = 0#n <;> simp [ifReservedZero, hr]

theorem ifReservedZero_eq_rejected {n : Nat} {c : Word} {r : BitVec n} {i : Instr} {e : DecodeError} :
    ifReservedZero c r i = .rejected e ↔ r ≠ 0#n ∧ .reservedBitSet (opcodeOf c) = e := by
  by_cases hr : r = 0#n <;> simp [ifReservedZero, hr]

/-- The decoder drops no bit of a command word (R92, R93). -/
theorem encode_of_decode_command {c : Word} {i : Instr} (h : decode (.command c) = .instr i) :
    encode i = .command c := by
  simp only [decode, decodeCommand] at h
  split at h
  case h_1 ho => cases h; exact commandWord_eq ho rfl
  case h_5 ho =>
    obtain ⟨hr, rfl⟩ := ifReservedZero_eq_instr.mp h
    exact commandWord_eq ho (operands_readPoint hr)
  case h_9 ho =>
    obtain ⟨hr, rfl⟩ := ifReservedZero_eq_instr.mp h
    exact commandWord_eq ho (operands_setTarget hr)
  case h_11 ho =>
    obtain ⟨hr, rfl⟩ := ifReservedZero_eq_instr.mp h
    exact commandWord_eq ho (operands_setCb hr)
  case h_13 =>
    cases h
    simp only [imp_false] at *
    exact congrArg Wire.command (reservedCF_word (by omega))
  all_goals
    rename_i ho
    obtain ⟨hr, rfl⟩ := ifReservedZero_eq_instr.mp h
    exact commandWord_eq ho hr

/-- The command port rejects a word only for a reserved operand bit. -/
theorem decode_command_rejected {c : Word} {e : DecodeError}
    (h : decode (.command c) = .rejected e) : e = .reservedBitSet (opcodeOf c) := by
  simp only [decode, decodeCommand] at h
  split at h
  case h_1 | h_13 => cases h
  all_goals exact (ifReservedZero_eq_rejected.mp h).2.symm

/-! ### The rows of R93 -/

/-- The encoding of every instruction is selected by the row of its own mnemonic. -/
theorem selectsOwnRow (i : Instr) : Laws.SelectsOwnRow.Statement i := by
  cases i with
  | start => exact Laws.SelectsOwnRow.start
  | stop => exact Laws.SelectsOwnRow.stop
  | snapshot => exact Laws.SelectsOwnRow.snapshot
  | readPoint k j => exact Laws.SelectsOwnRow.readPoint k j
  | readRpm => exact Laws.SelectsOwnRow.readRpm
  | readDrive => exact Laws.SelectsOwnRow.readDrive
  | readStatus => exact Laws.SelectsOwnRow.readStatus
  | setTarget v => exact Laws.SelectsOwnRow.setTarget v
  | readTarget => exact Laws.SelectsOwnRow.readTarget
  | setCb e => exact Laws.SelectsOwnRow.setCb e
  | scanAck => exact Laws.SelectsOwnRow.scanAck
  | reserved0 c => exact Laws.SelectsOwnRow.reserved0 c
  | reservedCF c => exact Laws.SelectsOwnRow.reservedCF c
  | huntByte d => exact Laws.SelectsOwnRow.huntByte d
  | huntShort x => exact Laws.SelectsOwnRow.huntShort x
  | hdr1Byte d => exact Laws.SelectsOwnRow.hdr1Byte d
  | hdr1Short x => exact Laws.SelectsOwnRow.hdr1Short x
  | payloadByte d => exact Laws.SelectsOwnRow.payloadByte d
  | payloadShort x => exact Laws.SelectsOwnRow.payloadShort x
  | top => exact Laws.SelectsOwnRow.top
  | validate => exact Laws.SelectsOwnRow.validate
  | decode => exact Laws.SelectsOwnRow.decode
  | publish => exact Laws.SelectsOwnRow.publish
  | adjust => exact Laws.SelectsOwnRow.adjust
  | notify => exact Laws.SelectsOwnRow.notify
  | stopseq => exact Laws.SelectsOwnRow.stopseq

theorem exists_namedRow_of_decode {c : Word} {i : Instr} (hd : decode (.command c) = .instr i)
    (hwf : i.wf = true) : ∃ r ∈ namedRows, r.selects c = true := by
  have hrow := selectsOwnRow i
  rw [Laws.SelectsOwnRow.Statement, encode_of_decode_command hd] at hrow
  obtain ⟨r, hr, hmnemonic, hsel⟩ := hrow
  refine ⟨r, List.mem_filter.mpr ⟨hr, ?_⟩, hsel⟩
  rw [hmnemonic]
  cases i with
  | reserved0 | reservedCF => cases hwf
  | _ => rfl

/-- The mask of READ_POINT's row keeps the opcode. -/
theorem opcodeOf_readPointRow {c : Word} (h : c &&& 0xFFFFEE00#32 = 0x40000000#32) :
    opcodeOf c = 0x4#4 := by
  have hand : opcodeOf c &&& BitVec.allOnes 4 = 0x4#4 :=
    BitVec.extractLsb'_and.symm.trans (congrArg opcodeOf h)
  rwa [BitVec.and_allOnes] at hand

theorem eq_readPoint_of_decode {c : Word} {i : Instr} (hop : opcodeOf c = 0x4#4)
    (hd : decode (.command c) = .instr i) :
    i = .readPoint (c.extractLsb' 12 1) (c.extractLsb' 0 9) := by
  simp only [decode, decodeCommand, hop, BitVec.toNat_ofNat] at hd
  exact (ifReservedZero_eq_instr.mp hd).2.symm

/-! ### An illegal word -/

theorem illegalCommand_iff (c : Word) :
    illegalCommand c = true ↔
      (∀ r ∈ namedRows, r.selects c = false)
        ∨ c &&& 0xFFFFEE00#32 = 0x40000000#32 ∧ Config.npoints ≤ (c.extractLsb' 0 9).toNat := by
  simp only [illegalCommand, Bool.or_eq_true, Bool.and_eq_true, List.all_eq_true,
    Bool.not_eq_true', decide_eq_true_eq]

theorem not_wf_of_illegalCommand {c : Word} {i : Instr} (hill : illegalCommand c = true)
    (hd : decode (.command c) = .instr i) : i.wf = false := by
  rcases (illegalCommand_iff c).mp hill with hnone | ⟨hsel, hj⟩
  · rw [Bool.eq_false_iff]
    intro hwf
    obtain ⟨r, hr, hrow⟩ := exists_namedRow_of_decode hd hwf
    exact Bool.eq_false_iff.mp (hnone r hr) hrow
  · rw [eq_readPoint_of_decode (opcodeOf_readPointRow hsel) hd]
    exact decide_eq_false hj.not_gt

/-- What no assembler may write, the command port answers with BADCMD (R95, R102). -/
theorem exec_of_not_wf {i : Instr} (h : i.wf = false) (s : State) : exec i s = .next s.badCommand := by
  cases i with
  | readPoint k j =>
    have hj : indexInRange j = false := h
    simp [exec, execReadPoint, hj]
  | reserved0 | reservedCF => rfl
  | _ => cases h

theorem runInput_illegalCommand {c : Word} (hill : illegalCommand c = true) (s : State) :
    runInput (.command c) s = .next s.badCommand := by
  cases hd : decode (.command c) with
  | instr i =>
    simp only [runInput, hd]
    exact exec_of_not_wf (not_wf_of_illegalCommand hill hd) s
  | rejected e => simp only [runInput, hd, decode_command_rejected hd, runRejected]

theorem step_host {s : State} {c : Word} {rest : List Turn} (h : s.turns = .host c :: rest) :
    step s = runInput (.command c) (s.setTurns rest) := by
  simp only [step, fetch, h]

/-- Settles O5: the word is run as BADCMD alone, which is a response and nothing else. -/
theorem illegalWordsChangeNothing : Obligations.IllegalWordsChangeNothing :=
  fun s _ rest hturns hill =>
    ⟨_, (step_host hturns).trans (runInput_illegalCommand hill _), effect_respond (s.setTurns rest) .badCmd []⟩

end Sys2Proof.Proofs

/-! The frame synchronizer (R111 to R116, R122). A token either leaves the frame RAM as it is (an `Effect`) or
stores one byte (a `StoreEffect`); each named update of the synchronizer is one of the two, said once. What a token
step does is then a choice among these updates by the tests of its rule. -/

namespace Sys2Proof.Proofs

open Sys2Proof.Machine

/-- `Effect` for a step that stores byte `d` at frame offset `i`: every other frame byte, and both banks, read as
before. -/
structure StoreEffect (s t : State) (i : Nat) (d : Byte) (r : Regs) (obs : List Obs) : Prop where
  regs : t.regs = r
  stored : t.frameByte i = d
  others : ∀ j, j ≠ i → t.frameByte j = s.frameByte j
  banks : ∀ k, bankKept k s t
  trace : t.trace = s.trace ++ obs
  world : worldKept s t

/-! ### The updates of the synchronizer -/

theorem effect_requestRead (s : State) (n : Nat) :
    Effect s (s.requestRead n) s.regs [.call (.transportRead n) .nothing] where
  regs := rfl
  memory := ⟨State.frameByte_congr s _ rfl rfl, State.scanEntry_congr s _ rfl rfl rfl⟩
  trace := rfl
  world := ⟨rfl, rfl, rfl, rfl, rfl⟩

theorem effect_rehunt (s : State) :
    Effect s s.rehunt { s.regs with count := 0#11, phase := .hunt } [.call (.transportRead 1) .nothing] where
  regs := rfl
  memory := ⟨State.frameByte_congr s _ rfl rfl, State.scanEntry_congr s _ rfl rfl rfl⟩
  trace := rfl
  world := ⟨rfl, rfl, rfl, rfl, rfl⟩

theorem storeEffect_candidate (s : State) (d : Byte) :
    StoreEffect s (s.candidate d) 0 d { s.regs with count := 1#11, phase := .hdr1 }
      [.call (.transportRead 1) .nothing] where
  regs := rfl
  stored := State.frameByte_putFrame_same s 0 d
  others _ hj := State.frameByte_putFrame_other s d hj
  banks := State.scanEntry_congr s _ rfl rfl rfl
  trace := rfl
  world := ⟨rfl, rfl, rfl, rfl, rfl⟩

theorem storeEffect_headerMatched (s : State) (d : Byte) :
    StoreEffect s (s.headerMatched d) 1 d { s.regs with count := 2#11, phase := .payload }
      [.call (.transportRead 1978) .nothing] where
  regs := rfl
  stored := State.frameByte_putFrame_same s 1 d
  others _ hj := State.frameByte_putFrame_other s d hj
  banks := State.scanEntry_congr s _ rfl rfl rfl
  trace := rfl
  world := ⟨rfl, rfl, rfl, rfl, rfl⟩

theorem frameByte_payloadByte (s : State) (d : Byte) (i : Nat) :
    (s.payloadByte d).frameByte i = (s.putFrame s.count.toNat d).frameByte i :=
  State.frameByte_congr _ _ (by simp) (by simp) i

theorem storeEffect_payloadByte (s : State) (d : Byte) :
    StoreEffect s (s.payloadByte d) s.count.toNat d
      { s.regs with
        count := s.count + 1#11
        phase := if (s.count + 1#11).toNat = 1980 then .validate else s.phase } [] where
  regs := by simp [State.regs]
  stored := by rw [frameByte_payloadByte, State.frameByte_putFrame_same]
  others _ hj := by rw [frameByte_payloadByte, State.frameByte_putFrame_other s d hj]
  banks := State.scanEntry_congr s _ (by simp) (by simp) (by simp)
  trace := by simp
  world := by simp [worldKept]

/-- `COUNT` does not wrap inside a frame (R24). -/
theorem toNat_count_succ {c : BitVec 11} (h : c.toNat < 1980) : (c + 1#11).toNat = c.toNat + 1 := by
  rw [BitVec.toNat_add, BitVec.toNat_ofNat]
  omega

/-! ### The token steps: one equation per test of their rules -/

section TokenSteps

variable {d : Byte} {s : State}

theorem exec_huntByte_of_eq (h : d = s.params.hdr0) : exec (.huntByte d) s = .next (s.candidate d) :=
  congrArg _ (if_pos h)

theorem exec_huntByte_of_ne (h : d ≠ s.params.hdr0) : exec (.huntByte d) s = .next (s.requestRead 1) :=
  congrArg _ (if_neg h)

theorem exec_hdr1Byte_of_eq (h : d = s.params.hdr1) : exec (.hdr1Byte d) s = .next (s.headerMatched d) :=
  congrArg _ (if_pos h)

theorem exec_hdr1Byte_of_ne_of_eq (h1 : d ≠ s.params.hdr1) (h0 : d = s.params.hdr0) :
    exec (.hdr1Byte d) s = .next (s.candidate d) :=
  congrArg _ ((if_neg h1).trans (if_pos h0))

theorem exec_hdr1Byte_of_ne_of_ne (h1 : d ≠ s.params.hdr1) (h0 : d ≠ s.params.hdr0) :
    exec (.hdr1Byte d) s = .next s.rehunt :=
  congrArg _ ((if_neg h1).trans (if_neg h0))

theorem exec_payloadByte_of_lt (h : s.count.toNat < 1980) :
    exec (.payloadByte d) s = .next (s.payloadByte d) := if_pos h

end TokenSteps

theorem exec_huntShort (x : Byte) (s : State) : exec (.huntShort x) s = .next (s.requestRead 1) := rfl

theorem exec_hdr1Short (x : Byte) (s : State) : exec (.hdr1Short x) s = .next s.rehunt := rfl

/-- R116: the drop mark, `COUNT` 0, TOP, and nothing else. -/
theorem exec_payloadShort (x : Byte) (s : State) :
    ∃ t, exec (.payloadShort x) s = .next t
      ∧ Effect s t { s.regs with count := 0#11, phase := .top } [.drop .shortRead] :=
  ⟨_, rfl,
    { regs := rfl
      memory := ⟨State.frameByte_congr s _ rfl rfl, State.scanEntry_congr s _ rfl rfl rfl⟩
      trace := rfl
      world := ⟨rfl, rfl, rfl, rfl, rfl⟩ }⟩

/-! ### The rules -/

/-- Settles O13: the one test of R111. -/
theorem huntByteLooksForTheFirstHeaderByte : Obligations.HuntByteLooksForTheFirstHeaderByte := by
  intro d s
  by_cases h0 : d = s.params.hdr0
  · have e := storeEffect_candidate s d
    refine ⟨_, exec_huntByte_of_eq h0, e.world, e.banks, ?_⟩
    rw [if_pos h0]
    exact ⟨e.regs, e.stored, e.others⟩
  · have e := effect_requestRead s 1
    refine ⟨_, exec_huntByte_of_ne h0, e.world, e.memory.2, ?_⟩
    rw [if_neg h0]
    exact ⟨e.regs, e.memory.1⟩

/-- Settles O14: the two tests of R113 in their order. -/
theorem hdr1ByteMatchesOrResynchronizes : Obligations.Hdr1ByteMatchesOrResynchronizes := by
  intro d s
  by_cases h1 : d = s.params.hdr1
  · have e := storeEffect_headerMatched s d
    refine ⟨_, exec_hdr1Byte_of_eq h1, e.world, e.banks, ?_⟩
    rw [if_pos h1]
    exact ⟨e.regs, e.stored, e.others⟩
  by_cases h0 : d = s.params.hdr0
  · have e := storeEffect_candidate s d
    refine ⟨_, exec_hdr1Byte_of_ne_of_eq h1 h0, e.world, e.banks, ?_⟩
    rw [if_neg h1, if_pos h0]
    exact ⟨e.regs, e.stored, e.others⟩
  · have e := effect_rehunt s
    refine ⟨_, exec_hdr1Byte_of_ne_of_ne h1 h0, e.world, e.memory.2, ?_⟩
    rw [if_neg h1, if_neg h0]
    exact ⟨e.regs, e.memory.1⟩

/-- Settles O15: a short read asks for the next byte, in HDR1 after dropping the candidate. -/
theorem shortReadsBeforeThePayload : Obligations.ShortReadsBeforeThePayload := fun x s =>
  have hunt := effect_requestRead s 1
  have hdr1 := effect_rehunt s
  ⟨⟨_, exec_huntShort x s, hunt.regs, hunt.memory, hunt.world⟩,
    ⟨_, exec_hdr1Short x s, hdr1.regs, hdr1.memory, hdr1.world⟩⟩

/-- Settles O16: the store is the model's own, and `COUNT` does not wrap below 1980. -/
theorem payloadByteStoresAtCount : Obligations.PayloadByteStoresAtCount := by
  intro d s hphase hcount
  have e := storeEffect_payloadByte s d
  have hnext : (s.payloadByte d).count = s.count + 1#11 := State.payloadByte_count s d
  refine ⟨_, exec_payloadByte_of_lt hcount, e.world, e.banks, ?count, ?regs, ?trace, e.stored, e.others⟩
  case count => rw [hnext, toNat_count_succ hcount]
  case regs => rw [e.regs, hnext, toNat_count_succ hcount, hphase]
  case trace => rw [e.trace, List.append_nil]

/-- Settles O17. -/
theorem payloadShortDropsTheFrame : Obligations.PayloadShortDropsTheFrame := exec_payloadShort

/-! ### The table of R122 -/

/-- A TRANSPORT turn with a token waiting runs that token's instruction, the turn and the token taken. -/
theorem step_transport {s : State} {tok : Token} {rest : List Turn} {more : List Token}
    (hpair : s.ls = s.phase.lifecycle) (htakes : s.phase.takesToken = true)
    (hturns : s.turns = .transport :: rest) (hrx : s.rx = tok :: more) :
    step s = exec (tokenInstr s.phase tok) ((s.setTurns rest).setRx more) := by
  have hfetch : fetch s = .input (.phaseToken (cat 13 s.phase.code tok)) ((s.setTurns rest).setRx more) := by
    simp [fetch, hturns, fetchToken, State.pairLegal, hpair, htakes, hrx]
  simp only [step, hfetch, runInput, decode_token s.phase tok htakes]

theorem takesToken_iff (p : Phase) :
    p.takesToken = true ↔ p = .hunt ∨ p = .hdr1 ∨ p = .payload := by
  cases p <;> simp [Phase.takesToken]

/-- While the ENGINE takes tokens, acquisition runs (R23). -/
theorem lifecycle_of_takesToken {p : Phase} (h : p.takesToken = true) : p.lifecycle = .running := by
  rcases (takesToken_iff p).mp h with rfl | rfl | rfl <;> rfl

/-- From `s` the token `tok` runs to a state that keeps the world and has the `PHASE` and `COUNT` of its row in the
table of R122. -/
def FollowsRow (s : State) (tok : Token) : Prop :=
  ∃ t, exec (tokenInstr s.phase tok) s = .next t ∧ worldKept s t
    ∧ (t.phase, t.count.toNat) = syncTable s.params s.phase s.count.toNat tok

section Rows

variable {s : State} {tok : Token}

theorem followsRow_hunt (hphase : s.phase = .hunt) (hcount : s.count.toNat = 0) : FollowsRow s tok := by
  unfold FollowsRow syncTable tokenInstr isByteToken
  rw [hphase]
  cases tok.getLsbD 8 with
  | true =>
    refine ⟨_, exec_huntShort _ s, (effect_requestRead s 1).world, ?_⟩
    simp [hphase, hcount]
  | false =>
    by_cases h0 : tok.extractLsb' 0 8 = s.params.hdr0
    · refine ⟨_, exec_huntByte_of_eq h0, (storeEffect_candidate s _).world, ?_⟩
      simp [h0]
    · refine ⟨_, exec_huntByte_of_ne h0, (effect_requestRead s 1).world, ?_⟩
      simp [h0, hphase, hcount]

theorem followsRow_hdr1 (hphase : s.phase = .hdr1) : FollowsRow s tok := by
  unfold FollowsRow syncTable tokenInstr isByteToken
  rw [hphase]
  cases tok.getLsbD 8 with
  | true =>
    refine ⟨_, exec_hdr1Short _ s, (effect_rehunt s).world, ?_⟩
    simp
  | false =>
    by_cases h1 : tok.extractLsb' 0 8 = s.params.hdr1
    · refine ⟨_, exec_hdr1Byte_of_eq h1, (storeEffect_headerMatched s _).world, ?_⟩
      simp [h1]
    by_cases h0 : tok.extractLsb' 0 8 = s.params.hdr0
    · refine ⟨_, exec_hdr1Byte_of_ne_of_eq h1 h0, (storeEffect_candidate s _).world, ?_⟩
      rw [h0] at h1
      simp [h0, h1]
    · refine ⟨_, exec_hdr1Byte_of_ne_of_ne h1 h0, (effect_rehunt s).world, ?_⟩
      simp [h0, h1]

theorem followsRow_payload (hphase : s.phase = .payload) (hcount : s.count.toNat < 1980) :
    FollowsRow s tok := by
  unfold FollowsRow syncTable tokenInstr isByteToken
  rw [hphase]
  cases tok.getLsbD 8 with
  | true =>
    obtain ⟨t, hexec, e⟩ := exec_payloadShort (tok.extractLsb' 0 8) s
    refine ⟨t, hexec, e.world, ?_⟩
    rw [show t.phase = .top from congrArg Regs.phase e.regs, show t.count = 0#11 from congrArg Regs.count e.regs]
    rfl
  | false =>
    refine ⟨_, exec_payloadByte_of_lt hcount, (storeEffect_payloadByte s _).world, ?_⟩
    rw [State.payloadByte_phase, State.payloadByte_count, toNat_count_succ hcount, hphase]
    by_cases hlast : s.count.toNat + 1 = 1980
    · simp [hlast]
    · simp [hlast, show s.count.toNat + 1 < 1980 by omega]

end Rows

theorem followsRow_of_countLegal {s : State} (tok : Token) (htakes : s.phase.takesToken = true)
    (hcount : countLegal s.phase s.count = true) : FollowsRow s tok := by
  rcases (takesToken_iff s.phase).mp htakes with hphase | hphase | hphase
  · exact followsRow_hunt hphase (by simpa [countLegal, hphase] using hcount)
  · exact followsRow_hdr1 hphase
  · have hle : 2 ≤ s.count.toNat ∧ s.count.toNat ≤ 1979 := by simpa [countLegal, hphase] using hcount
    exact followsRow_payload hphase (by omega)

/-- Settles O18: the turn runs the token's instruction, and each instruction follows its row. -/
theorem synchronizerTableIsComplete : Obligations.SynchronizerTableIsComplete := by
  intro s tok rest more hls htakes hcount hturns hrx
  have hpair : s.ls = s.phase.lifecycle := hls.trans (lifecycle_of_takesToken htakes).symm
  obtain ⟨t, hexec, ⟨hts, hrs, -⟩, hrow⟩ :=
    followsRow_of_countLegal (s := (s.setTurns rest).setRx more) tok htakes hcount
  exact ⟨t, (step_transport hpair htakes hturns hrx).trans hexec, hts, hrs, hrow⟩

end Sys2Proof.Proofs

/-! The stalled TRANSPORT (R118). With no token waiting, a turn that is no power-on reset is a hold, a line of a
script or a host command, and while acquisition runs no host command moves the ENGINE outside WAIT_ACK. -/

namespace Sys2Proof.Proofs

open Sys2Proof.Machine

/-- From `s` to `t` the ENGINE has not moved: `LS`, `PHASE`, `COUNT` and both RAMs as they were. -/
structure EngineHeld (s t : State) : Prop where
  ls : t.ls = s.ls
  phase : t.phase = s.phase
  count : t.count = s.count
  frame : t.frame = s.frame
  bank0 : t.bank0 = s.bank0
  bank1 : t.bank1 = s.bank1
  boots : t.boots = s.boots

theorem EngineHeld.memoryKept {s t : State} (h : EngineHeld s t) : memoryKept s t :=
  ⟨State.frameByte_congr s t h.frame h.boots, State.scanEntry_congr s t h.bank0 h.bank1 h.boots⟩

theorem EngineHeld.refl (s : State) : EngineHeld s s := ⟨rfl, rfl, rfl, rfl, rfl, rfl, rfl⟩

theorem EngineHeld.trans {s t u : State} (h : EngineHeld s t) (h' : EngineHeld t u) : EngineHeld s u :=
  ⟨h'.ls.trans h.ls, h'.phase.trans h.phase, h'.count.trans h.count, h'.frame.trans h.frame,
    h'.bank0.trans h.bank0, h'.bank1.trans h.bank1, h'.boots.trans h.boots⟩

theorem engineHeld_setTurns (s : State) (ts : List Turn) : EngineHeld s (s.setTurns ts) :=
  ⟨rfl, rfl, rfl, rfl, rfl, rfl, rfl⟩

theorem engineHeld_fixAnswer (s : State) (a : FixedAnswer) : EngineHeld s (s.fixAnswer a) :=
  ⟨rfl, rfl, rfl, rfl, rfl, rfl, rfl⟩

/-- A response moves nothing. -/
theorem EngineHeld.respond {s t : State} (h : EngineHeld s t) (status : RespStatus) (data : List Word) :
    EngineHeld s (t.respond status data) :=
  ⟨h.ls, h.phase, h.count, h.frame, h.bank0, h.bank1, h.boots⟩

theorem not_hasInternalStep_of_takesToken {p : Phase} (h : p.takesToken = true) :
    ¬ p.hasInternalStep = true := by
  rcases (takesToken_iff p).mp h with rfl | rfl | rfl <;> simp [Phase.hasInternalStep]

/-- No command word is an ENGINE step (R93, R103). -/
theorem isEngineStep_of_decode_command {c : Word} {i : Instr} (h : decode (.command c) = .instr i) :
    i.isEngineStep = false := by
  have henc := encode_of_decode_command h
  cases i with
  | huntByte | huntShort | hdr1Byte | hdr1Short | payloadByte | payloadShort
  | top | validate | decode | publish | adjust | notify | stopseq => cases henc
  | _ => rfl

/-- While acquisition runs and outside WAIT_ACK, a host command writes at most a register the ENGINE's place does
not depend on, and answers. -/
theorem exec_command_eq_respond {i : Instr} {s : State} (hi : i.isEngineStep = false)
    (hls : s.ls = .running) (hphase : s.phase ≠ .waitAck) :
    ∃ u status data, exec i s = .next (u.respond status data) ∧ EngineHeld s u := by
  cases i with
  | start => exact ⟨s, .ok, [1#32], by simp [exec, execStart, hls], .refl s⟩
  | stop => exact ⟨s.setStopReq true, .ok, [], by simp [exec, execStop, hls], rfl, rfl, rfl, rfl, rfl, rfl, rfl⟩
  | scanAck => exact ⟨s, .ok, [], by simp [exec, execScanAck, hphase], .refl s⟩
  | setTarget v => exact ⟨s.setTarget v, .ok, _, rfl, rfl, rfl, rfl, rfl, rfl, rfl, rfl⟩
  | setCb e => exact ⟨s.setCbEn (decide (e = 1#1)), .ok, _, rfl, rfl, rfl, rfl, rfl, rfl, rfl, rfl⟩
  | readPoint k j =>
    simp only [exec, execReadPoint]
    split
    · exact ⟨s, .badCmd, _, rfl, .refl s⟩
    · split
      · exact ⟨s.drew, .ok, _, rfl, rfl, rfl, rfl, rfl, rfl, rfl, rfl⟩
      · exact ⟨s, .ok, _, rfl, .refl s⟩
  | snapshot | readRpm | readDrive | readStatus | readTarget => exact ⟨s, .ok, _, rfl, .refl s⟩
  | reserved0 | reservedCF => exact ⟨s, .badCmd, _, rfl, .refl s⟩
  | huntByte | huntShort | hdr1Byte | hdr1Short | payloadByte | payloadShort
  | top | validate | decode | publish | adjust | notify | stopseq => cases hi

theorem engineHeld_runInput_command {c : Word} {s t : State} (hls : s.ls = .running)
    (hphase : s.phase ≠ .waitAck) (h : runInput (.command c) s = .next t) : EngineHeld s t := by
  cases hd : decode (.command c) with
  | instr i =>
    obtain ⟨u, status, data, hexec, hheld⟩ :=
      exec_command_eq_respond (isEngineStep_of_decode_command hd) hls hphase
    simp only [runInput, hd, hexec] at h
    cases h
    exact hheld.respond status data
  | rejected e =>
    simp only [runInput, hd, decode_command_rejected hd, runRejected] at h
    cases h
    exact (EngineHeld.refl s).respond _ _

theorem engineHeld_pollIdle {s t : State} {ts : List Turn}
    (h : exec .readStatus (if s.readsIdle then s.setTurns ts else s) = .next t) : EngineHeld s t := by
  rw [exec_readStatus] at h
  cases h
  split
  · exact (engineHeld_setTurns s ts).respond _ _
  · exact (EngineHeld.refl s).respond _ _

/-- Settles O10: of the things a step can be, an internal step asks for another phase, a token step for a token and
the reset for its turn; each of the others leaves the ENGINE held. -/
theorem stalledTransportHoldsTheEngine : Obligations.StalledTransportHoldsTheEngine := by
  intro s t hls htakes hrx hpower hstep
  have hphase : s.phase ≠ .waitAck := fun h => by rw [h] at htakes; cases htakes
  have held : EngineHeld s t := by
    rcases step_cases s t hstep with ⟨ts, rfl, -⟩ | ⟨ts, hturns, -⟩ | ⟨c, ts, -, hcommand⟩
      | ⟨ts, -, hinternal, -⟩ | ⟨ts, tok, more, -, -, htoken, -⟩ | ⟨a, ts, -, rfl⟩ | ⟨ts, -, hpoll⟩
    · exact engineHeld_setTurns s ts
    · exact absurd (congrArg List.head? hturns) hpower
    · exact (engineHeld_setTurns s ts).trans (engineHeld_runInput_command hls hphase hcommand)
    · exact absurd hinternal (not_hasInternalStep_of_takesToken htakes)
    · rw [hrx] at htoken; cases htoken
    · exact (engineHeld_setTurns s ts).trans (engineHeld_fixAnswer _ a)
    · exact engineHeld_pollIdle hpoll
  exact ⟨held.ls.trans hls, held.phase, held.count, held.memoryKept⟩

end Sys2Proof.Proofs

/-! The checksum of a packet and the VALIDATE step (R130 to R135, R138). The fold is a weighted sum, so its bounds
are those of its words, and the rest of a checksum is the one division by `2^15` of R132. -/

namespace Sys2Proof.Proofs

open Sys2Proof.Machine

/-! ### The fold -/

theorem foldWords_append_singleton (ws : List Half) (w : Half) :
    foldWords (ws ++ [w]) = foldWords ws * 2 + w.toNat := by
  simp [foldWords, Nat.shiftLeft_eq]

/-- The closed form of R131: each word's weight is doubled once for every word after it. -/
theorem foldWords_map_range_succ (f : Nat → Half) (n : Nat) :
    foldWords ((List.range (n + 1)).map f) = ∑ i ∈ Finset.range (n + 1), (f i).toNat * 2 ^ (n - i) := by
  induction n with
  | zero => simp [foldWords]
  | succ n ih =>
    have hdouble : ∀ i ∈ Finset.range (n + 1),
        (f i).toNat * 2 ^ (n - i) * 2 = (f i).toNat * 2 ^ (n + 1 - i) := by
      intro i hi
      rw [Nat.succ_sub (Finset.mem_range_succ_iff.mp hi), pow_succ, mul_assoc]
    rw [List.range_succ, List.map_append, List.map_singleton, foldWords_append_singleton, ih,
      Finset.sum_mul, Finset.sum_congr rfl hdouble, Finset.sum_range_succ _ (n + 1)]
    simp

theorem foldWords_packetWords (s : State) (p : Nat) :
    foldWords (s.packetWords p) = ∑ i ∈ Finset.range 10, (s.word p i).toNat * 2 ^ (9 - i) :=
  foldWords_map_range_succ (s.word p) 9

/-- The bound of R131 for any number of words, reached when every word is `0xFFFF`. -/
theorem foldWords_le (ws : List Half) : foldWords ws ≤ 65535 * (2 ^ ws.length - 1) := by
  induction ws using List.reverseRecOn with
  | nil => simp [foldWords]
  | append_singleton ws w ih =>
    have hw := w.isLt
    have hpos := Nat.two_pow_pos ws.length
    rw [foldWords_append_singleton, List.length_append, List.length_singleton, pow_succ]
    omega

theorem foldWords_packetWords_le (s : State) (p : Nat) : foldWords (s.packetWords p) ≤ 67042305 := by
  have h := foldWords_le (s.packetWords p)
  rwa [State.packetWords, List.length_map, List.length_range] at h

/-! ### The reduce and the comparison -/

theorem reduceSum_eq (c : Nat) : reduceSum c = (c % 2 ^ 15 + c / 2 ^ 15) % 2 ^ 15 := by
  rw [reduceSum, Nat.shiftRight_eq_div_pow, Nat.and_two_pow_sub_one_eq_mod _ 15,
    Nat.and_two_pow_sub_one_eq_mod _ 15]

theorem chk_lt (s : State) (p : Nat) : s.chk p < 2 ^ 15 := by
  rw [State.chk, reduceSum_eq]
  exact Nat.mod_lt _ (by decide)

/-- A checksum depends on its packet's words through their fold alone. -/
theorem chk_congr {s t : State} {p : Nat} (h : foldWords (t.packetWords p) = foldWords (s.packetWords p)) :
    t.chk p = s.chk p := congrArg reduceSum h

theorem pass_iff (s : State) (p : Nat) : s.pass p = true ↔ s.chk p = (s.stored p).toNat :=
  decide_eq_true_iff

theorem pass_eq_false_iff (s : State) (p : Nat) : s.pass p = false ↔ s.chk p ≠ (s.stored p).toNat :=
  decide_eq_false_iff_not

/-- Settles O22. -/
theorem checksumFoldsAndReduces : Obligations.ChecksumFoldsAndReduces := by
  intro s p
  have hfold := foldWords_packetWords_le s p
  exact ⟨foldWords_packetWords s p, hfold, by omega, reduceSum_eq _, by omega, by omega⟩

/-- Settles O23: a checksum has 15 bits, so it never equals a value with bit 15 set. -/
theorem checksumCompareIsSixteenBits : Obligations.ChecksumCompareIsSixteenBits := by
  intro s p
  refine ⟨pass_iff s p, fun hbit => ?_⟩
  have hstored : 2 ^ 15 ≤ (s.stored p).toNat :=
    Nat.ge_two_pow_of_testBit ((BitVec.testBit_toNat _).trans hbit)
  exact (pass_eq_false_iff s p).mpr ((chk_lt s p).trans_le hstored).ne

/-! ### VALIDATE -/

theorem frameOk_iff (s : State) : s.frameOk = true ↔ ∀ p, p < 90 → s.pass p = true := by
  simp [State.frameOk, Config.npkt]

theorem exec_validate_of_frameOk {s : State} (h : s.frameOk = true) :
    exec .validate s = .next (s |>.setCount 0#11 |>.setPhase .decode) := congrArg _ (if_pos h)

theorem exec_validate_of_not_frameOk {s : State} (h : ¬ s.frameOk = true) :
    exec .validate s = .next (s |>.setCount 0#11 |>.log (.drop .checksum) |>.setPhase .top) :=
  congrArg _ (if_neg h)

theorem effect_acceptFrame (s : State) :
    Effect s (s |>.setCount 0#11 |>.setPhase .decode) { s.regs with count := 0#11, phase := .decode } [] where
  regs := rfl
  memory := ⟨State.frameByte_congr s _ rfl rfl, State.scanEntry_congr s _ rfl rfl rfl⟩
  trace := (List.append_nil _).symm
  world := ⟨rfl, rfl, rfl, rfl, rfl⟩

theorem effect_dropFrame (s : State) :
    Effect s (s |>.setCount 0#11 |>.log (.drop .checksum) |>.setPhase .top)
      { s.regs with count := 0#11, phase := .top } [.drop .checksum] where
  regs := rfl
  memory := ⟨State.frameByte_congr s _ rfl rfl, State.scanEntry_congr s _ rfl rfl rfl⟩
  trace := rfl
  world := ⟨rfl, rfl, rfl, rfl, rfl⟩

/-- Settles O24: the two branches of R134, told apart by whether every packet passes. -/
theorem validateIsAllOrNothing : Obligations.ValidateIsAllOrNothing := by
  intro s
  by_cases hok : s.frameOk = true
  · have hall := (frameOk_iff s).mp hok
    refine ⟨_, exec_validate_of_frameOk hok, fun _ => effect_acceptFrame s, fun ⟨p, hp, hfail⟩ => ?_⟩
    exact absurd (hall p hp) (by simp [hfail])
  · refine ⟨_, exec_validate_of_not_frameOk hok, fun hall => ?_, fun _ => effect_dropFrame s⟩
    exact absurd ((frameOk_iff s).mpr hall) hok

/-! ### Packets of zeros -/

/-- The stored checksum lies where an eleventh word would. -/
theorem stored_eq_word (s : State) (p : Nat) : s.stored p = s.word p 10 := rfl

theorem word_eq_zero {s : State} {p i : Nat} (hlow : s.frameByte (22 * p + 2 * i) = 0#8)
    (hhigh : s.frameByte (22 * p + (2 * i + 1)) = 0#8) : s.word p i = 0#16 := by
  rw [← Nat.add_assoc] at hhigh
  rw [State.word, State.le16, packetBase, Config.pktSize, hlow, hhigh]
  rfl

theorem fold_and_chk_of_zeros {s : State} {p : Nat} (h : ∀ off, off < 20 → s.frameByte (22 * p + off) = 0#8) :
    foldWords (s.packetWords p) = 0 ∧ s.chk p = 0 := by
  have hfold : foldWords (s.packetWords p) = 0 := by
    rw [foldWords_packetWords]
    refine Finset.sum_eq_zero fun i hi => ?_
    have hi := Finset.mem_range.mp hi
    rw [word_eq_zero (h _ (by omega)) (h _ (by omega)), BitVec.toNat_zero, Nat.zero_mul]
  exact ⟨hfold, congrArg reduceSum hfold⟩

/-- Settles O27: the last clause is the header of an accepted frame, its bytes the first two of packet 0. -/
theorem allZeroPacketPasses : Obligations.AllZeroPacketPasses := by
  refine ⟨fun s p => fold_and_chk_of_zeros, fun s p hzero => ?_, fun s hinv hphase hzero => ?_⟩
  · have hchk := (fold_and_chk_of_zeros fun off hoff => hzero off (by omega)).2
    have hstored : s.stored p = 0#16 :=
      (stored_eq_word s p).trans (word_eq_zero (hzero 20 (by decide)) (hzero 21 (by decide)))
    rw [pass_iff, hchk, hstored, BitVec.toNat_zero]
  · obtain ⟨-, -, hdr0, hdr1⟩ := hinv.accepted hphase
    exact ⟨hdr0.symm.trans (hzero 0 (by decide)), hdr1.symm.trans (hzero 1 (by decide))⟩

end Sys2Proof.Proofs

/-! Bit errors in a packet (R136, R137). The words of a packet enter the fold with the weights `2^(9-i)`. Hence one
flipped bit moves the fold by a power of two, and the reduce separates numbers so far apart; a bit set and the next
word's next higher bit cleared move it by the same power of two up and down. -/

namespace Sys2Proof.Proofs

open Sys2Proof.Machine

/-! ### What setting or flipping one bit does to a number -/

theorem toNat_or_twoPow {w b : Nat} {x : BitVec w} (hb : b < w) (h : x.getLsbD b = false) :
    (x ||| BitVec.twoPow w b).toNat = x.toNat + 2 ^ b := by
  have hdisjoint : x &&& BitVec.twoPow w b = 0#w := by simp [BitVec.and_twoPow, h]
  rw [← BitVec.add_eq_or_of_and_eq_zero _ _ hdisjoint, BitVec.toNat_add_of_and_eq_zero hdisjoint,
    BitVec.toNat_twoPow_of_lt hb]

theorem toNat_and_not_twoPow {w b : Nat} {x : BitVec w} (hb : b < w) (h : x.getLsbD b = true) :
    (x &&& ~~~(BitVec.twoPow w b)).toNat + 2 ^ b = x.toNat := by
  have hback : (x &&& ~~~(BitVec.twoPow w b)) ||| BitVec.twoPow w b = x := by
    ext j hj
    rcases eq_or_ne j b with rfl | hjb
    · simp [← BitVec.getLsbD_eq_getElem, h, hb]
    · simp [hjb]
  have hclear : (x &&& ~~~(BitVec.twoPow w b)).getLsbD b = false := by simp [hb]
  rw [← toNat_or_twoPow hb hclear, hback]

theorem xor_twoPow_of_clear {w b : Nat} {x : BitVec w} (h : x.getLsbD b = false) :
    x ^^^ BitVec.twoPow w b = x ||| BitVec.twoPow w b := by
  ext j hj
  rcases eq_or_ne j b with rfl | hjb
  · rw [BitVec.getLsbD_eq_getElem hj] at h
    simp [h]
  · simp [hjb]

theorem xor_twoPow_of_set {w b : Nat} {x : BitVec w} (h : x.getLsbD b = true) :
    x ^^^ BitVec.twoPow w b = x &&& ~~~(BitVec.twoPow w b) := by
  ext j hj
  rcases eq_or_ne j b with rfl | hjb
  · rw [BitVec.getLsbD_eq_getElem hj] at h
    simp [h]
  · simp [hjb]

theorem dist_toNat_xor_twoPow {w b : Nat} (x : BitVec w) (hb : b < w) :
    Nat.dist (x ^^^ BitVec.twoPow w b).toNat x.toNat = 2 ^ b := by
  cases h : x.getLsbD b with
  | false =>
    rw [xor_twoPow_of_clear h, toNat_or_twoPow hb h, Nat.dist_eq_sub_of_le_right (Nat.le_add_right _ _),
      Nat.add_sub_cancel_left]
  | true =>
    rw [xor_twoPow_of_set h, ← toNat_and_not_twoPow hb h, Nat.dist_eq_sub_of_le (Nat.le_add_right _ _),
      Nat.add_sub_cancel_left]

/-! ### The reduce separates folds a power of two apart -/

/-- Modulo `2^15` the low 15 bits of `c` count as `c` itself. -/
theorem reduceSum_eq_add_div_mod (c : Nat) : reduceSum c = (c + c / 2 ^ 15) % 2 ^ 15 := by
  rw [reduceSum_eq]
  omega

/-- The two cases of R136: below `2^15` a carry may add 1 to the rest; from `2^15` on only the rest moves. -/
theorem reduceSum_add_two_pow_ne (c : Nat) {k : Nat} (hk : k ≤ 24) : reduceSum (c + 2 ^ k) ≠ reduceSum c := by
  rw [reduceSum_eq_add_div_mod, reduceSum_eq_add_div_mod]
  have hpos : 0 < 2 ^ k := Nat.two_pow_pos k
  rcases Nat.lt_or_ge k 15 with hlow | hhigh
  · have hle : 2 ^ k ≤ 2 ^ 14 := Nat.pow_le_pow_right (by decide) (by omega)
    omega
  · obtain ⟨m, rfl⟩ := Nat.exists_eq_add_of_le hhigh
    have hm : 2 ^ m ≤ 2 ^ 9 := Nat.pow_le_pow_right (by decide) (by omega)
    rw [pow_add] at hpos ⊢
    omega

theorem reduceSum_ne_of_dist {c c' k : Nat} (hk : k ≤ 24) (h : Nat.dist c c' = 2 ^ k) :
    reduceSum c ≠ reduceSum c' := by
  rcases Nat.le_total c c' with hle | hle
  · have hc : c' = c + 2 ^ k := by rw [Nat.dist_eq_sub_of_le hle] at h; omega
    exact hc ▸ (reduceSum_add_two_pow_ne c hk).symm
  · have hc : c = c' + 2 ^ k := by rw [Nat.dist_eq_sub_of_le_right hle] at h; omega
    exact hc ▸ reduceSum_add_two_pow_ne c' hk

/-! ### The frame with one bit flipped -/

/-- The state with bit `bit` of frame byte `a` flipped. -/
def flipped (s : State) (a bit : Nat) : State := s.putFrame a (s.frameByte a ^^^ BitVec.twoPow 8 bit)

section Packet

variable {s : State} {a i p off bit : Nat}

theorem toNat_le16 (s : State) (i : Nat) :
    (s.le16 i).toNat = (s.frameByte (i + 1)).toNat * 2 ^ 8 + (s.frameByte i).toNat := toNat_cat _ _ rfl

theorem dist_frameByte_flipped (s : State) (a : Nat) (hbit : bit < 8) :
    Nat.dist ((flipped s a bit).frameByte a).toNat (s.frameByte a).toNat = 2 ^ bit := by
  rw [flipped, State.frameByte_putFrame_same, dist_toNat_xor_twoPow _ hbit]

theorem frameByte_flipped_other (h : i ≠ a) : (flipped s a bit).frameByte i = s.frameByte i :=
  State.frameByte_putFrame_other s _ h

theorem dist_le16_flipped_low (s : State) (i : Nat) (hbit : bit < 8) :
    Nat.dist ((flipped s i bit).le16 i).toNat (s.le16 i).toNat = 2 ^ bit := by
  rw [toNat_le16, toNat_le16, frameByte_flipped_other (Nat.succ_ne_self i), Nat.dist_add_add_left,
    dist_frameByte_flipped s i hbit]

theorem dist_le16_flipped_high (s : State) (i : Nat) (hbit : bit < 8) :
    Nat.dist ((flipped s (i + 1) bit).le16 i).toNat (s.le16 i).toNat = 2 ^ (bit + 8) := by
  rw [toNat_le16, toNat_le16, frameByte_flipped_other (Nat.succ_ne_self i).symm, Nat.dist_add_add_right,
    Nat.dist_mul_right, dist_frameByte_flipped s (i + 1) hbit, pow_add]

/-- Bit `bit` of byte `off` is bit `bit + 8 * (off % 2)` of word `off / 2`. -/
theorem dist_word_flipped (s : State) (p off : Nat) (hbit : bit < 8) :
    Nat.dist ((flipped s (22 * p + off) bit).word p (off / 2)).toNat (s.word p (off / 2)).toNat
      = 2 ^ (bit + 8 * (off % 2)) := by
  unfold State.word packetBase Config.pktSize
  rcases Nat.mod_two_eq_zero_or_one off with hlow | hhigh
  · have haddr : 22 * p + off = 22 * p + 2 * (off / 2) := by omega
    rw [haddr, hlow]
    exact dist_le16_flipped_low s _ hbit
  · have haddr : 22 * p + off = 22 * p + 2 * (off / 2) + 1 := by omega
    rw [haddr, hhigh]
    exact dist_le16_flipped_high s _ hbit

theorem word_flipped_other (h : i ≠ off / 2) : (flipped s (22 * p + off) bit).word p i = s.word p i := by
  unfold State.word State.le16 packetBase Config.pktSize
  rw [frameByte_flipped_other (by omega), frameByte_flipped_other (by omega)]

/-! ### One word, or two neighbours, in the fold -/

/-- What the words of packet `p` other than word `i` add to its fold. -/
def foldWithout (s : State) (p i : Nat) : Nat :=
  ∑ n ∈ (Finset.range 10).erase i, (s.word p n).toNat * 2 ^ (9 - n)

theorem foldWords_eq_add_foldWithout (s : State) (p : Nat) (hi : i < 10) :
    foldWords (s.packetWords p) = (s.word p i).toNat * 2 ^ (9 - i) + foldWithout s p i := by
  rw [foldWords_packetWords]
  exact (Finset.add_sum_erase _ _ (Finset.mem_range.mpr hi)).symm

theorem foldWithout_congr {t : State} (h : ∀ n, n ≠ i → t.word p n = s.word p n) :
    foldWithout t p i = foldWithout s p i :=
  Finset.sum_congr rfl fun n hn => by rw [h n (Finset.ne_of_mem_erase hn)]

/-- Two words next to each other in the fold, apart from the rest. -/
theorem foldWords_eq_add_pair (s : State) (p : Nat) (hi : i ≤ 8) :
    foldWords (s.packetWords p) = ((s.word p i).toNat * 2 + (s.word p (i + 1)).toNat) * 2 ^ (8 - i)
      + ∑ n ∈ ((Finset.range 10).erase i).erase (i + 1), (s.word p n).toNat * 2 ^ (9 - n) := by
  have hnext : i + 1 ∈ (Finset.range 10).erase i := by simp; omega
  have hpow : 2 ^ (9 - i) = 2 * 2 ^ (8 - i) := by rw [← pow_succ']; congr 1; omega
  rw [foldWords_eq_add_foldWithout s p (show i < 10 by omega), foldWithout,
    ← Finset.add_sum_erase _ _ hnext, hpow, show 9 - (i + 1) = 8 - i by omega]
  ring

/-- A flip of one bit of the first 20 bytes moves the fold by the bit's weight. -/
theorem dist_fold_flipped (s : State) (p : Nat) (hoff : off < 20) (hbit : bit < 8) :
    Nat.dist (foldWords ((flipped s (22 * p + off) bit).packetWords p)) (foldWords (s.packetWords p))
      = 2 ^ (bit + 8 * (off % 2) + (9 - off / 2)) := by
  have hword : off / 2 < 10 := by omega
  rw [foldWords_eq_add_foldWithout _ p hword, foldWords_eq_add_foldWithout s p hword,
    foldWithout_congr fun n hn => word_flipped_other hn, Nat.dist_add_add_right, Nat.dist_mul_right,
    dist_word_flipped s p off hbit, ← pow_add]

/-! ### A flipped bit in the checksum and in the stored value -/

theorem chk_flipped_ne (s : State) (p : Nat) (hoff : off < 20) (hbit : bit < 8) :
    (flipped s (22 * p + off) bit).chk p ≠ s.chk p :=
  reduceSum_ne_of_dist (by omega) (dist_fold_flipped s p hoff hbit)

theorem chk_flipped_of_ge (s : State) (p bit : Nat) (hoff : 20 ≤ off) :
    (flipped s (22 * p + off) bit).chk p = s.chk p := by
  refine chk_congr (congrArg foldWords (List.map_congr_left fun i hi => word_flipped_other ?_))
  have hi := List.mem_range.mp hi
  omega

theorem stored_flipped_of_lt (s : State) (p bit : Nat) (hoff : off < 20) :
    (flipped s (22 * p + off) bit).stored p = s.stored p := by
  rw [stored_eq_word, stored_eq_word, word_flipped_other (by omega)]

theorem stored_flipped_ne (s : State) (p : Nat) (hge : 20 ≤ off) (hlt : off < 22) (hbit : bit < 8) :
    (flipped s (22 * p + off) bit).stored p ≠ s.stored p := by
  intro hsame
  have hdist := dist_word_flipped s p off hbit
  rw [show off / 2 = 10 by omega, ← stored_eq_word, ← stored_eq_word, hsame, Nat.dist_self] at hdist
  exact (Nat.two_pow_pos _).ne hdist

end Packet

/-! ### The rules -/

/-- Settles O25: a flip moves the checksum or the stored value, and never both. -/
theorem singleBitErrorsAreCaught : Obligations.SingleBitErrorsAreCaught := by
  intro s p off bit hoff hbit
  refine ⟨fun h => chk_flipped_ne s p h hbit,
    fun h => ⟨chk_flipped_of_ge s p bit h, stored_flipped_ne s p h hoff hbit⟩, fun hpass => ?_⟩
  have hmatch := (pass_iff s p).mp hpass
  refine (pass_eq_false_iff (flipped s (22 * p + off) bit) p).mpr ?_
  rcases Nat.lt_or_ge off 20 with hdata | hstored
  · rw [stored_flipped_of_lt s p bit hdata, ← hmatch]
    exact chk_flipped_ne s p hdata hbit
  · rw [chk_flipped_of_ge s p bit hstored, hmatch]
    exact fun hsame => stored_flipped_ne s p hstored hoff hbit (BitVec.eq_of_toNat_eq hsame).symm

/-- Settles O26: against the next word the earlier one counts double, so its bit `b` weighs what bit `b + 1` of the
next one does. -/
theorem someTwoBitErrorsPass : Obligations.SomeTwoBitErrorsPass := by
  intro s t p i b hi hb hclear hset hword hnext hothers
  have hpair : (t.word p i).toNat * 2 + (t.word p (i + 1)).toNat
      = (s.word p i).toNat * 2 + (s.word p (i + 1)).toNat := by
    have hup := toNat_or_twoPow (by omega) hclear
    have hdown := toNat_and_not_twoPow (by omega) hset
    rw [hword, hnext, hup, ← hdown, pow_succ]
    omega
  have hfold : foldWords (t.packetWords p) = foldWords (s.packetWords p) := by
    rw [foldWords_eq_add_pair t p hi, foldWords_eq_add_pair s p hi, hpair]
    congr 1
    refine Finset.sum_congr rfl fun n hn => ?_
    obtain ⟨hne, hn⟩ := Finset.mem_erase.mp hn
    rw [hothers n (Finset.ne_of_mem_erase hn) hne]
  exact ⟨hfold, chk_congr hfold⟩

end Sys2Proof.Proofs

/-! DECODE (R141 to R148). Each entry of the write-target bank is decoded from its own chunk and from what it held, and
the rest of the rule is what the three named updates leave alone. -/

namespace Sys2Proof.Proofs

open Sys2Proof.Machine

/-! ### The speed sum (R148) -/

theorem foldl_add_range_eq_sum (f : Nat → Nat) (n : Nat) :
    (List.range n).foldl (fun sum p => sum + f p) 0 = ∑ p ∈ Finset.range n, f p := by
  induction n with
  | zero => rfl
  | succ n ih => rw [List.range_succ, List.foldl_append, ih, Finset.sum_range_succ]; rfl

theorem speedTotal_eq_sum (s : State) : s.speedTotal = ∑ p ∈ Finset.range 90, (s.speed p).toNat := by
  rw [State.speedTotal]
  exact foldl_add_range_eq_sum (fun p => (s.speed p).toNat) 90

theorem speedTotal_le (s : State) : s.speedTotal ≤ 5898150 := by
  have hle : ∀ p ∈ Finset.range 90, (s.speed p).toNat ≤ 65535 := fun p _ => Nat.le_of_lt_succ (s.speed p).isLt
  rw [speedTotal_eq_sum]
  exact Finset.sum_le_card_nsmul (Finset.range 90) _ 65535 hle

/-- The register is wide enough for the sum. -/
theorem toNat_ofNat_speedTotal (s : State) : (BitVec.ofNat 23 s.speedTotal).toNat = s.speedTotal := by
  have hle := speedTotal_le s
  rw [BitVec.toNat_ofNat, Nat.mod_eq_of_lt (by omega)]

/-! ### The scan RAM after DECODE -/

theorem scanEntry_putBank_same (s : State) (k : BankNo) (b : Bank) (j : Nat) :
    (s.putBank k b).scanEntry k j = entryOf s.boots k j (Bank.cell b j) := by
  simp [State.scanEntry]

theorem scanEntry_putBank_other (s : State) {k k' : BankNo} (b : Bank) (j : Nat) (h : k' ≠ k) :
    (s.putBank k b).scanEntry k' j = s.scanEntry k' j := by
  simp [State.scanEntry, State.bank_putBank_other s b h]

theorem stable_ne_wrSel (s : State) : s.stable ≠ s.wrSel := by
  rw [State.stable]
  rcases bankNo_cases s.wrSel with h | h <;> rw [h] <;> decide

theorem skipped_iff (s : State) (p c : Nat) : s.skipped p c = true ↔ s.inv p c = true ∨ s.dist p c = 0#14 := by
  simp [State.skipped]

/-- Reading a decoded cell is decoding what was read before (R143, R144). -/
theorem entryOf_decodedCell (s : State) (k : BankNo) (j : Nat) (c : ScanCell) :
    entryOf s.boots k j (s.decodedCell j c) = decodedEntry s j (entryOf s.boots k j c) := by
  by_cases hskip : s.skipped (packetOf j) (chunkOf j) = true
  · rw [State.decodedCell, if_pos hskip]
    exact (if_pos ((skipped_iff s _ _).mp hskip)).symm
  · rw [State.decodedCell, if_neg hskip]
    exact (if_neg (mt (skipped_iff s _ _).mpr hskip)).symm

/-- The state DECODE leaves. -/
def decoded (s : State) : State :=
  s |>.putBank s.wrSel (s.decodedBank (s.bank s.wrSel))
    |>.setSpeedSum (BitVec.ofNat 23 s.speedTotal) |>.setPhase .publish

theorem exec_decode (s : State) : exec .decode s = .next (decoded s) := rfl

theorem decoded_regs (s : State) :
    (decoded s).regs = { s.regs with speedSum := (decoded s).speedSum, phase := .publish } := by
  simp [decoded, State.regs]

theorem decoded_speedSum (s : State) : (decoded s).speedSum.toNat = s.speedTotal := toNat_ofNat_speedTotal s

theorem scanEntry_decoded_wrSel (s : State) (j : Nat) :
    (decoded s).scanEntry s.wrSel j
      = if j < 360 then decodedEntry s j (s.scanEntry s.wrSel j) else s.scanEntry s.wrSel j := by
  have hcell := cell_decodedBank s (s.bank s.wrSel) j
  rw [show (decoded s).scanEntry s.wrSel j = _ from scanEntry_putBank_same s s.wrSel _ j, hcell,
    apply_ite (entryOf s.boots s.wrSel j), entryOf_decodedCell]
  rfl

theorem bankKept_decoded_stable (s : State) : bankKept s.stable s (decoded s) := fun j =>
  scanEntry_putBank_other s _ j (stable_ne_wrSel s)

theorem frameKept_decoded (s : State) : frameKept s (decoded s) :=
  State.frameByte_congr s _ (by simp [decoded]) (by simp [decoded])

theorem worldKept_decoded (s : State) : worldKept s (decoded s) := by
  simp [worldKept, decoded]

/-- Settles O28: a clause for each thing the updates of `decoded` write or leave alone. -/
theorem decodeWritesTheWriteTarget : Obligations.DecodeWritesTheWriteTarget := by
  intro s
  refine ⟨decoded s, exec_decode s, decoded_regs s, ?sum, ?bound, fun j hj => ?within, fun j hj => ?beyond,
    bankKept_decoded_stable s, frameKept_decoded s, by simp [decoded], worldKept_decoded s⟩
  case sum => rw [decoded_speedSum, speedTotal_eq_sum]
  case bound => rw [decoded_speedSum]; exact speedTotal_le s
  case within => rw [scanEntry_decoded_wrSel, if_pos hj]
  case beyond => rw [scanEntry_decoded_wrSel, if_neg hj.not_gt]

end Sys2Proof.Proofs

/-! The converter (R150 to R154). Every angle folds onto the first quadrant, with a sign; a cosine is the sine of an
angle 90 degrees on. So what holds of the 91 entries of the ROM holds of both tables. -/

namespace Sys2Proof.Proofs

open Sys2Proof.Machine

/-! ### Folding (R152) -/

/-- The angle of the first quadrant whose sine is, but for its sign, that of `a` degrees. -/
def quadrantFold (a : Nat) : Nat :=
  if a ≤ 90 then a else if a ≤ 180 then 180 - a else if a ≤ 270 then a - 180 else 360 - a

/-- The sign that goes with `quadrantFold`: negative in the second half turn. -/
def quadrantSign (a : Nat) : Int := if a ≤ 180 then 1 else -1

theorem quadrantFold_le {a : Nat} (ha : a ≤ 360) : quadrantFold a ≤ 90 := by
  unfold quadrantFold
  split_ifs <;> omega

theorem quadrantFold_eq_zero_iff {a : Nat} (ha : a ≤ 360) : quadrantFold a = 0 ↔ a = 0 ∨ a = 180 ∨ a = 360 := by
  unfold quadrantFold
  split_ifs <;> omega

theorem abs_quadrantSign (a : Nat) : |quadrantSign a| = 1 := by
  unfold quadrantSign
  split_ifs <;> rfl

theorem quadrantSign_ne_zero (a : Nat) : quadrantSign a ≠ 0 :=
  abs_pos.mp (abs_quadrantSign a ▸ one_pos)

theorem sinDeg_eq_sign_mul_qw (p : Config.Params) (a : Nat) :
    sinDeg p a = quadrantSign a * qw p (quadrantFold a) := by
  unfold sinDeg quadrantSign quadrantFold
  split_ifs <;> omega

/-- 90 degrees on from `a` degrees, at most a full turn. -/
def quarterTurn (a : Nat) : Nat := if a ≤ 270 then a + 90 else a - 270

theorem quarterTurn_cases (a : Nat) :
    (a ≤ 270 ∧ quarterTurn a = a + 90) ∨ (270 < a ∧ quarterTurn a = a - 270) := by
  unfold quarterTurn
  split_ifs <;> omega

theorem quarterTurn_le {a : Nat} (ha : a < 360) : quarterTurn a ≤ 360 := by
  have hcases := quarterTurn_cases a
  omega

theorem quadrantSign_quarterTurn {a : Nat} (ha : a < 360) :
    quadrantSign (quarterTurn a) = if a ≤ 90 then 1 else if a ≤ 270 then -1 else 1 := by
  unfold quadrantSign quarterTurn
  split_ifs <;> omega

theorem quadrantFold_quarterTurn {a : Nat} (ha : a < 360) :
    quadrantFold (quarterTurn a)
      = if a ≤ 90 then 90 - a else if a ≤ 180 then a - 90 else if a ≤ 270 then 270 - a else a - 270 := by
  unfold quadrantFold quarterTurn
  split_ifs <;> omega

/-- The two foldings of R152 are one, a quarter turn apart. -/
theorem cosDeg_eq_sinDeg (p : Config.Params) {a : Nat} (ha : a < 360) : cosDeg p a = sinDeg p (quarterTurn a) := by
  rw [sinDeg_eq_sign_mul_qw, quadrantSign_quarterTurn ha, quadrantFold_quarterTurn ha, cosDeg]
  split_ifs <;> omega

/-! ### The two tables at the widths of R6 -/

theorem qw_range : ∀ k ≤ 90, |qw Config.params k| ≤ 4194304 ∧ (qw Config.params k = 0 ↔ k = 0) := by
  decide +kernel

section Tables

variable {p : Config.Params} (hp : p.statedWidths)
include hp

theorem abs_sinDeg_le {a : Nat} (ha : a ≤ 360) : |sinDeg p a| ≤ 4194304 := by
  obtain ⟨hle, -⟩ := qw_range _ (quadrantFold_le ha)
  rwa [sinDeg_eq_sign_mul_qw, abs_mul, abs_quadrantSign, one_mul, qw_statedWidths p hp]

theorem sinDeg_eq_zero_iff {a : Nat} (ha : a ≤ 360) : sinDeg p a = 0 ↔ a = 0 ∨ a = 180 ∨ a = 360 := by
  obtain ⟨-, hzero⟩ := qw_range _ (quadrantFold_le ha)
  rw [sinDeg_eq_sign_mul_qw, mul_eq_zero_iff_left (quadrantSign_ne_zero a), qw_statedWidths p hp, hzero,
    quadrantFold_eq_zero_iff ha]

theorem abs_sinv_le {j : Nat} (hj : j < 360) : |sinv p j| ≤ 4194304 := by
  rw [sinv, abs_neg]
  exact abs_sinDeg_le hp hj.le

theorem abs_cosv_le {j : Nat} (hj : j < 360) : |cosv p j| ≤ 4194304 := by
  rw [cosv, abs_neg, cosDeg_eq_sinDeg p hj]
  exact abs_sinDeg_le hp (quarterTurn_le hj)

theorem sinv_eq_zero_iff {j : Nat} (hj : j < 360) : sinv p j = 0 ↔ j = 0 ∨ j = 180 := by
  rw [sinv, neg_eq_zero, sinDeg_eq_zero_iff hp hj.le]
  omega

theorem cosv_eq_zero_iff {j : Nat} (hj : j < 360) : cosv p j = 0 ↔ j = 90 ∨ j = 270 := by
  have hcases := quarterTurn_cases j
  rw [cosv, neg_eq_zero, cosDeg_eq_sinDeg p hj, sinDeg_eq_zero_iff hp (quarterTurn_le hj)]
  omega

end Tables

/-! ### The product (R153, R154) -/

section Product

variable {p : Config.Params} (hp : p.statedWidths) {d : BitVec 14} (hd : d ≠ 0#14) {t : Int} (ht : |t| ≤ 4194304)
include hp hd ht

theorem sign_product : (product p d t).toInt.sign = t.sign := by
  have hne : d.toNat ≠ 0 := BitVec.toNat_ne.mp hd
  rw [product_exact p hp d t ht, Int.sign_mul, Int.sign_natCast_of_ne_zero hne, one_mul]

theorem product_eq_zero_iff : product p d t = 0#40 ↔ t = 0 := by
  rw [← BitVec.toInt_inj, BitVec.toInt_zero, ← Int.sign_eq_zero_iff_zero, sign_product hp hd ht,
    Int.sign_eq_zero_iff_zero]

end Product

/-- Settles O29: the product of numbers so small is exact, so it has the sign and the zeros of the table value. -/
theorem converterIsExact : Obligations.ConverterIsExact := by
  intro p d j hp hj
  have hcos := abs_cosv_le hp hj
  have hsin := abs_sinv_le hp hj
  refine ⟨product_exact p hp d _ hcos, mul_bound d _ hcos, product_exact p hp d _ hsin, mul_bound d _ hsin,
    fun hd => ⟨sign_product hp hd hcos, sign_product hp hd hsin, ?cosZero, ?sinZero⟩⟩
  case cosZero => rw [product_eq_zero_iff hp hd hcos, cosv_eq_zero_iff hp hj]
  case sinZero => rw [product_eq_zero_iff hp hd hsin, sinv_eq_zero_iff hp hj]

end Sys2Proof.Proofs

/-! The accuracy of the LUT ROM over the real sine (R155). One degree is held as a Gaussian integer over `10^18`, so
its powers are exact and approximate the points of the unit circle at whole degrees; the error grows by no more than
its first size at each power. The Taylor polynomial of the exponential places the first. What is left to compare with
the 91 entries are integers. -/

namespace Sys2Proof.Proofs

open Sys2Proof.Machine

/-! ### The unit circle -/

/-- Numbers of the unit disc: the error of a power is at most the sum of the errors of its factors. -/
theorem norm_pow_sub_pow_le {z w : ℂ} (hz : ‖z‖ ≤ 1) (hw : ‖w‖ ≤ 1) (n : ℕ) :
    ‖z ^ n - w ^ n‖ ≤ n * ‖z - w‖ := by
  induction n with
  | zero => simp
  | succ n ih =>
    have hsplit : z ^ (n + 1) - w ^ (n + 1) = z ^ n * (z - w) + (z ^ n - w ^ n) * w := by ring
    have hpow : ‖z ^ n‖ ≤ 1 := by
      rw [norm_pow]
      exact pow_le_one₀ (norm_nonneg z) hz
    calc ‖z ^ (n + 1) - w ^ (n + 1)‖
        ≤ ‖z ^ n‖ * ‖z - w‖ + ‖z ^ n - w ^ n‖ * ‖w‖ := by
          rw [hsplit, ← norm_mul, ← norm_mul]
          exact norm_add_le _ _
      _ ≤ 1 * ‖z - w‖ + n * ‖z - w‖ * 1 := by gcongr
      _ = (n + 1 : ℕ) * ‖z - w‖ := by push_cast; ring

/-- On the unit circle a chord is no longer than its arc. -/
theorem norm_exp_mul_I_sub_exp_mul_I_le (x y : ℝ) :
    ‖Complex.exp (x * Complex.I) - Complex.exp (y * Complex.I)‖ ≤ |x - y| := by
  have hturn : Complex.exp (x * Complex.I) - Complex.exp (y * Complex.I)
      = Complex.exp (y * Complex.I) * (Complex.exp (Complex.I * (x - y : ℝ)) - 1) := by
    rw [mul_sub, ← Complex.exp_add, mul_one]
    congr 2
    push_cast
    ring
  rw [hturn, norm_mul, Complex.norm_exp_ofReal_mul_I, one_mul]
  exact Real.norm_exp_I_mul_ofReal_sub_one_le

/-- The first eight terms of the exponential of `x * i`: four of the cosine and four of the sine. -/
noncomputable def expTaylor (x : ℝ) : ℂ :=
  ⟨1 - x ^ 2 / 2 + x ^ 4 / 24 - x ^ 6 / 720, x - x ^ 3 / 6 + x ^ 5 / 120 - x ^ 7 / 5040⟩

theorem sum_exp_mul_I_eight (x : ℝ) :
    ∑ m ∈ Finset.range 8, ((x : ℂ) * Complex.I) ^ m / m.factorial = expTaylor x := by
  rw [expTaylor, Complex.mk_eq_add_mul_I]
  simp only [Finset.sum_range_succ, Finset.sum_range_zero, mul_pow, pow_succ, pow_zero, Complex.I_mul_I, one_mul,
    neg_mul, Nat.factorial]
  push_cast
  ring

/-! ### One degree -/

/-- Cosine and sine of one degree in units of `10^-18`, rounded down. -/
def degreeStep : GaussianInt := ⟨999847695156391239, 17452406437283512⟩

/-- The complex number that `degreeStep` stands for. -/
noncomputable def degreePoint : ℂ := GaussianInt.toComplex degreeStep / (10 ^ 18 : ℝ)

theorem degreePoint_eq : degreePoint = ⟨999847695156391239 / 10 ^ 18, 17452406437283512 / 10 ^ 18⟩ := by
  apply Complex.ext
  · rw [degreePoint, Complex.div_ofReal_re]; simp [degreeStep]
  · rw [degreePoint, Complex.div_ofReal_im]; simp [degreeStep]

theorem norm_degreePoint_le : ‖degreePoint‖ ≤ 1 := by
  rw [← sq_le_one_iff₀ (norm_nonneg _), ← Complex.normSq_eq_norm_sq, degreePoint_eq, Complex.normSq_mk]
  norm_num

/-- `pi / 180`, with pi to 20 decimals. -/
noncomputable def degreeArc : ℝ := 314159265358979323846 / (180 * 10 ^ 20)

theorem abs_pi_div_sub_degreeArc_le : |Real.pi / 180 - degreeArc| ≤ 1 / 10 ^ 20 := by
  have hlow := Real.pi_gt_d20
  have hhigh := Real.pi_lt_d20
  rw [degreeArc, abs_le]
  constructor <;> linarith

theorem norm_exp_sub_expTaylor_le : ‖Complex.exp (degreeArc * Complex.I) - expTaylor degreeArc‖ ≤ 1 / 10 ^ 18 := by
  have hnorm : ‖(degreeArc : ℂ) * Complex.I‖ = degreeArc := by
    rw [norm_mul, Complex.norm_I, mul_one, Complex.norm_of_nonneg (by norm_num [degreeArc])]
  have hrest := Complex.exp_bound (x := degreeArc * Complex.I) (n := 8)
    (by rw [hnorm]; norm_num [degreeArc]) (by norm_num)
  rw [sum_exp_mul_I_eight, hnorm] at hrest
  refine hrest.trans ?_
  norm_num [degreeArc, Nat.factorial]

theorem norm_expTaylor_sub_degreePoint_le : ‖expTaylor degreeArc - degreePoint‖ ≤ 1 / 10 ^ 18 := by
  refine (Complex.norm_le_abs_re_add_abs_im _).trans ?_
  rw [degreePoint_eq, Complex.sub_re, Complex.sub_im]
  norm_num [expTaylor, degreeArc]

/-- The three errors of `degreePoint`: of pi, of the series and of rounding. -/
theorem norm_exp_degree_sub_degreePoint_le :
    ‖Complex.exp ((Real.pi / 180 : ℝ) * Complex.I) - degreePoint‖ ≤ 3 / 10 ^ 18 := by
  have harc := (norm_exp_mul_I_sub_exp_mul_I_le (Real.pi / 180) degreeArc).trans abs_pi_div_sub_degreeArc_le
  have hseries := norm_exp_sub_expTaylor_le
  have hround := norm_expTaylor_sub_degreePoint_le
  calc ‖Complex.exp ((Real.pi / 180 : ℝ) * Complex.I) - degreePoint‖
      ≤ ‖Complex.exp ((Real.pi / 180 : ℝ) * Complex.I) - Complex.exp (degreeArc * Complex.I)‖
          + (‖Complex.exp (degreeArc * Complex.I) - expTaylor degreeArc‖ + ‖expTaylor degreeArc - degreePoint‖) :=
        (norm_sub_le_norm_sub_add_norm_sub ..).trans (by gcongr; exact norm_sub_le_norm_sub_add_norm_sub ..)
    _ ≤ 3 / 10 ^ 18 := by linarith

/-! ### Whole degrees -/

/-- The denominator of the powers of `degreeStep`. -/
def degreeScale (k : ℕ) : ℤ := (10 ^ 18) ^ k

theorem cast_degreeScale (k : ℕ) : (degreeScale k : ℝ) = (10 ^ 18) ^ k := by
  norm_num [degreeScale]

theorem degreeScale_pos (k : ℕ) : (0 : ℝ) < degreeScale k := by
  rw [cast_degreeScale]
  positivity

/-- The sine of `k` degrees as the powers of `degreeStep` give it. -/
noncomputable def sineApprox (k : ℕ) : ℝ := (degreeStep ^ k).im / degreeScale k

theorem degreePoint_pow_im (k : ℕ) : (degreePoint ^ k).im = sineApprox k := by
  rw [degreePoint, div_pow, ← map_pow, ← Complex.ofReal_pow, Complex.div_ofReal_im, ← GaussianInt.intCast_im,
    sineApprox, cast_degreeScale]

theorem sin_degrees_eq_im (k : ℕ) :
    Real.sin (k * Real.pi / 180) = (Complex.exp ((Real.pi / 180 : ℝ) * Complex.I) ^ k).im := by
  rw [← Complex.exp_nat_mul, ← mul_assoc, ← Complex.ofReal_natCast, ← Complex.ofReal_mul, Complex.exp_ofReal_mul_I_im,
    mul_div_assoc]

theorem abs_sin_degrees_sub_sineApprox_le (k : ℕ) :
    |Real.sin (k * Real.pi / 180) - sineApprox k| ≤ k * (3 / 10 ^ 18) := by
  rw [sin_degrees_eq_im, ← degreePoint_pow_im, ← Complex.sub_im]
  calc _ ≤ _ := Complex.abs_im_le_norm _
    _ ≤ k * ‖Complex.exp ((Real.pi / 180 : ℝ) * Complex.I) - degreePoint‖ :=
      norm_pow_sub_pow_le (Complex.norm_exp_ofReal_mul_I _).le norm_degreePoint_le k
    _ ≤ k * (3 / 10 ^ 18) := by gcongr; exact norm_exp_degree_sub_degreePoint_le

/-! ### The entries of the ROM -/

/-- The error of entry `k` against `sineApprox`, in units of `1 / degreeScale k`. -/
def romError (k : ℕ) : ℤ := qw Config.params k * degreeScale k - 2 ^ 22 * (degreeStep ^ k).im

theorem abs_romError_le : ∀ k ≤ 90, 10 ^ 6 * |romError k| ≤ 489655 * degreeScale k := by
  decide +kernel

/-- Entry 32 has the largest error. -/
theorem lt_abs_romError_32 : 4896502 * degreeScale 32 < 10 ^ 7 * |romError 32| := by
  decide +kernel

theorem abs_qw_sub_sineApprox (k : ℕ) :
    |(qw Config.params k : ℝ) - 2 ^ 22 * sineApprox k| = |(romError k : ℝ)| / degreeScale k := by
  have hpos := degreeScale_pos k
  rw [← abs_of_pos hpos, ← abs_div, romError, sineApprox, Int.cast_sub, Int.cast_mul, Int.cast_mul, sub_div,
    mul_div_cancel_right₀ _ hpos.ne', mul_div_assoc]
  norm_num

theorem abs_qw_sub_sineApprox_le {k : ℕ} (hk : k ≤ 90) :
    |(qw Config.params k : ℝ) - 2 ^ 22 * sineApprox k| ≤ 0.489655 := by
  have herror : 10 ^ 6 * |(romError k : ℝ)| ≤ 489655 * degreeScale k := by exact_mod_cast abs_romError_le k hk
  rw [abs_qw_sub_sineApprox, div_le_iff₀ (degreeScale_pos k)]
  linarith

theorem lt_abs_qw_sub_sineApprox_32 : 0.4896502 < |(qw Config.params 32 : ℝ) - 2 ^ 22 * sineApprox 32| := by
  have herror : 4896502 * degreeScale 32 < 10 ^ 7 * |(romError 32 : ℝ)| := by exact_mod_cast lt_abs_romError_32
  rw [abs_qw_sub_sineApprox, lt_div_iff₀ (degreeScale_pos 32)]
  linarith

/-- Measuring an entry against the sine or against its approximation makes next to no difference. -/
theorem abs_sub_abs_qw_sub_sin_le {k : ℕ} (hk : k ≤ 90) :
    |(|(qw Config.params k : ℝ) - 2 ^ 22 * Real.sin (k * Real.pi / 180)|
      - |(qw Config.params k : ℝ) - 2 ^ 22 * sineApprox k|)| ≤ 1 / 10 ^ 8 := by
  refine (abs_abs_sub_abs_le _ _).trans ?_
  have hk : (k : ℝ) ≤ 90 := by exact_mod_cast hk
  calc _ = 2 ^ 22 * |Real.sin (k * Real.pi / 180) - sineApprox k| := by
        rw [sub_sub_sub_cancel_left, ← mul_sub, abs_mul, abs_sub_comm, abs_of_pos (by norm_num : (0 : ℝ) < 2 ^ 22)]
    _ ≤ 2 ^ 22 * (90 * (3 / 10 ^ 18)) := by
        gcongr
        exact (abs_sin_degrees_sub_sineApprox_le k).trans (by gcongr)
    _ ≤ 1 / 10 ^ 8 := by norm_num

theorem abs_qw_sub_sin_le {p : Config.Params} (hp : p.statedWidths) {k : ℕ} (hk : k ≤ 90) :
    |(qw p k : ℝ) - 2 ^ 22 * Real.sin (k * Real.pi / 180)| ≤ 0.48966 := by
  rw [qw_statedWidths p hp]
  have hdiff := (abs_le.mp (abs_sub_abs_qw_sub_sin_le hk)).2
  have happrox := abs_qw_sub_sineApprox_le hk
  linarith

theorem lt_abs_qw_sub_sin_32 {p : Config.Params} (hp : p.statedWidths) :
    0.48965 < |(qw p 32 : ℝ) - 2 ^ 22 * Real.sin ((32 : ℕ) * Real.pi / 180)| := by
  rw [qw_statedWidths p hp]
  have hdiff := (abs_le.mp (abs_sub_abs_qw_sub_sin_le (k := 32) (by decide))).1
  have happrox := lt_abs_qw_sub_sineApprox_32
  linarith

/-! ### The folded tables (R152, R155) -/

theorem sin_degrees_eq_sign_mul {a : ℕ} (ha : a ≤ 360) :
    Real.sin (a * Real.pi / 180) = quadrantSign a * Real.sin (quadrantFold a * Real.pi / 180) := by
  unfold quadrantSign quadrantFold
  split_ifs with h180 h90 h90 h270
  · simp
  · have hfold : ((180 - a : ℕ) : ℝ) * Real.pi / 180 = Real.pi - a * Real.pi / 180 := by
      rw [Nat.cast_sub h180]; push_cast; ring
    rw [hfold, Real.sin_pi_sub, Int.cast_one, one_mul]
  · omega
  · have hfold : ((a - 180 : ℕ) : ℝ) * Real.pi / 180 = a * Real.pi / 180 - Real.pi := by
      rw [Nat.cast_sub (by omega)]; push_cast; ring
    rw [hfold, Real.sin_sub_pi]; simp
  · have hfold : ((360 - a : ℕ) : ℝ) * Real.pi / 180 = 2 * Real.pi - a * Real.pi / 180 := by
      rw [Nat.cast_sub ha]; push_cast; ring
    rw [hfold, Real.sin_two_pi_sub]; simp

theorem sin_quarterTurn (a : ℕ) : Real.sin (quarterTurn a * Real.pi / 180) = Real.cos (a * Real.pi / 180) := by
  rcases quarterTurn_cases a with ⟨-, hturn⟩ | ⟨hgt, hturn⟩
  · have hangle : ((a + 90 : ℕ) : ℝ) * Real.pi / 180 = a * Real.pi / 180 + Real.pi / 2 := by
      push_cast; ring
    rw [hturn, hangle, Real.sin_add_pi_div_two]
  · have hangle : ((a - 270 : ℕ) : ℝ) * Real.pi / 180 = a * Real.pi / 180 + Real.pi / 2 - 2 * Real.pi := by
      rw [Nat.cast_sub hgt.le]; push_cast; ring
    rw [hturn, hangle, Real.sin_sub_two_pi, Real.sin_add_pi_div_two]

/-- The angle of an entry is half a turn back from its index (R146), which is what the minus of R152 makes up for. -/
theorem phiDegrees_mul_pi_div (j : ℕ) : (phiDegrees j : ℝ) * Real.pi / 180 = j * Real.pi / 180 - Real.pi := by
  rw [phiDegrees]
  push_cast
  ring

section Accuracy

variable {p : Config.Params} (hp : p.statedWidths)
include hp

theorem abs_sinDeg_sub_sin_le {a : ℕ} (ha : a ≤ 360) :
    |(sinDeg p a : ℝ) - 2 ^ 22 * Real.sin (a * Real.pi / 180)| ≤ 0.48966 := by
  have hsign : |(quadrantSign a : ℝ)| = 1 := by exact_mod_cast abs_quadrantSign a
  have hrom := abs_qw_sub_sin_le hp (quadrantFold_le ha)
  rwa [sinDeg_eq_sign_mul_qw, sin_degrees_eq_sign_mul ha, Int.cast_mul, mul_left_comm, ← mul_sub, abs_mul, hsign,
    one_mul]

theorem abs_sinv_sub_sin_le {j : ℕ} (hj : j < 360) :
    |(sinv p j : ℝ) - 2 ^ 22 * Real.sin (phiDegrees j * Real.pi / 180)| ≤ 0.48966 := by
  rw [sinv, phiDegrees_mul_pi_div, Real.sin_sub_pi, Int.cast_neg, mul_neg, ← neg_sub', abs_neg]
  exact abs_sinDeg_sub_sin_le hp hj.le

theorem abs_cosv_sub_cos_le {j : ℕ} (hj : j < 360) :
    |(cosv p j : ℝ) - 2 ^ 22 * Real.cos (phiDegrees j * Real.pi / 180)| ≤ 0.48966 := by
  rw [cosv, phiDegrees_mul_pi_div, Real.cos_sub_pi, Int.cast_neg, mul_neg, ← neg_sub', abs_neg,
    cosDeg_eq_sinDeg p hj, ← sin_quarterTurn]
  exact abs_sinDeg_sub_sin_le hp (quarterTurn_le hj)

/-- A coordinate errs by its table value's error, once for each of the at most 16383 units of distance (R155, R156). -/
theorem abs_coordinateMetres_sub_lt {t : ℤ} {u : ℝ} (d : BitVec 14) (ht : |t| ≤ 4194304)
    (hu : |(t : ℝ) - 2 ^ 22 * u| ≤ 0.48966) :
    |((coordinateMetres p (product p d t) : ℚ) : ℝ) - (d.toNat : ℝ) / 1000 * u| < 192 / 10 ^ 8 := by
  have hfrac : p.lutFrac = 22 := hp.1
  have hd : (d.toNat : ℝ) ≤ 16383 := by exact_mod_cast Nat.le_of_lt_succ d.isLt
  have hmetres : ((coordinateMetres p (product p d t) : ℚ) : ℝ) - (d.toNat : ℝ) / 1000 * u
      = d.toNat / (1000 * 2 ^ 22) * (t - 2 ^ 22 * u) := by
    rw [coordinateMetres, product_exact p hp d t ht, hfrac]
    push_cast
    ring
  calc |((coordinateMetres p (product p d t) : ℚ) : ℝ) - (d.toNat : ℝ) / 1000 * u|
      = d.toNat / (1000 * 2 ^ 22) * |t - 2 ^ 22 * u| := by
        rw [hmetres, abs_mul, abs_of_nonneg (by positivity)]
    _ ≤ 16383 / (1000 * 2 ^ 22) * 0.48966 := by gcongr
    _ < 192 / 10 ^ 8 := by norm_num

end Accuracy

/-- Settles O30: the error of the ROM bounds those of both tables, and theirs bound a coordinate's. -/
theorem converterIsAccurate : Obligations.ConverterIsAccurate := by
  intro p hp
  refine ⟨fun k hk => abs_qw_sub_sin_le hp hk, ⟨32, by decide, lt_abs_qw_sub_sin_32 hp⟩, fun d j hj => ?_⟩
  have hcosLe := abs_cosv_le hp hj
  have hsinLe := abs_sinv_le hp hj
  have hcos := abs_cosv_sub_cos_le hp hj
  have hsin := abs_sinv_sub_sin_le hp hj
  exact ⟨rfl, rfl, hcosLe, hsinLe, hcos, hsin, abs_coordinateMetres_sub_lt hp d hcosLe hcos,
    abs_coordinateMetres_sub_lt hp d hsinLe hsin⟩

end Sys2Proof.Proofs

/-! The scan buffer (R170 to R177): PUBLISH, and what the host reads of it. A read is a response and nothing else, so
what is left to say of it is its words: each is a nest of concatenations, whose fields `simp` finds. -/

namespace Sys2Proof.Proofs

open Sys2Proof.Machine

/-! ### PUBLISH and the stable bank (R26, R170) -/

/-- The state PUBLISH leaves. -/
def published (s : State) : State := s |>.setWrSel (1#1 - s.wrSel) |>.setPhase .adjust

theorem exec_publish (s : State) : exec .publish s = .next (published s) := rfl

theorem effect_published (s : State) :
    Effect s (published s) { s.regs with wrSel := 1#1 - s.wrSel, phase := .adjust } [] where
  regs := rfl
  memory := ⟨State.frameByte_congr s _ rfl rfl, State.scanEntry_congr s _ rfl rfl rfl⟩
  trace := (List.append_nil _).symm
  world := ⟨rfl, rfl, rfl, rfl, rfl⟩

/-- The bank that was the write-target is the stable one. -/
theorem stable_published (s : State) : (published s).stable = s.wrSel := sub_sub_cancel 1#1 s.wrSel

/-- Settles O31: the exchange is the one write of `WR_SEL` in `published`. -/
theorem publishExchangesTheBanks : Obligations.PublishExchangesTheBanks := fun s =>
  ⟨published s, exec_publish s, effect_published s, stable_published s⟩

/-! ### The register reads (R172, R195, R196, R223) -/

theorem exec_snapshot (s : State) : exec .snapshot s = .next (s.respond .ok [zext32 s.stable]) := rfl

theorem exec_readRpm (s : State) : exec .readRpm s = .next (s.respond .ok [zext32 s.speedSum]) := rfl

theorem exec_readDrive (s : State) : exec .readDrive s = .next (s.respond .ok [cat 32 s.pwmRange s.drive]) := rfl

theorem exec_readTarget (s : State) : exec .readTarget s = .next (s.respond .ok [zext32 s.target]) := rfl

theorem toNat_zext32 {n : Nat} (v : BitVec n) (h : n ≤ 32) : (zext32 v).toNat = v.toNat :=
  BitVec.toNat_setWidth_of_le h

theorem toNat_stable (s : State) : s.stable.toNat = 1 - s.wrSel.toNat := by
  rw [State.stable]
  rcases bankNo_cases s.wrSel with h | h <;> rw [h] <;> rfl

/-- Settles O32: each word has the value of its register, and a response changes nothing. -/
theorem registerReadsAnswer : Obligations.RegisterReadsAnswer := by
  intro s
  refine ⟨⟨_, _, exec_snapshot s, effect_respond s .ok _, ?bank⟩, ⟨_, _, exec_readRpm s, effect_respond s .ok _, ?rpm⟩,
    ⟨_, _, exec_readDrive s, effect_respond s .ok _, ?drive⟩, _, _, exec_readTarget s, effect_respond s .ok _, ?target⟩
  case bank => rw [toNat_zext32 _ (by decide), toNat_stable]
  case rpm => exact toNat_zext32 _ (by decide)
  case drive => exact toNat_cat _ _ rfl
  case target => exact toNat_zext32 _ (by decide)

/-! ### READ_POINT (R174, R175) -/

/-- A field of the low 32 bits is the same in the 32-bit word. -/
@[simp] theorem extractLsb'_zext32 {n start len : Nat} (v : BitVec n) (h : start + len ≤ 32) :
    (zext32 v).extractLsb' start len = v.extractLsb' start len := by
  ext i hi
  simp [zext32, show start + i < 32 by omega]

/-- The four words of an entry hold each of its fields at its place, and the host's reassembly gives back the
coordinates. -/
theorem exists_pointWords (e : ScanEntry) :
    ∃ d0 d1 d2 d3, pointWords e = [d0, d1, d2, d3]
      ∧ d0.extractLsb' 0 14 = e.dist ∧ d0.getLsbD 14 = e.tooClose ∧ d0.getLsbD 15 = e.valid
      ∧ d0.extractLsb' 16 16 = e.strength
      ∧ reassemble (d3.extractLsb' 0 8) d1 = e.x ∧ reassemble (d3.extractLsb' 8 8) d2 = e.y
      ∧ d3.extractLsb' 16 16 = 0#16 := by
  refine ⟨_, _, _, _, rfl, ?dist, ?tooClose, ?valid, ?strength, ?x, ?y, ?zero⟩
  case dist | tooClose | valid | strength => simp
  case x =>
    rw [extractLsb'_zext32 _ (by decide), extractLsb'_cat_low _ _ (by decide)]
    exact cat_extractLsb' e.x rfl
  case y =>
    rw [extractLsb'_zext32 _ (by decide), extractLsb'_cat_high _ _ rfl]
    exact cat_extractLsb' e.y rfl
  case zero =>
    rw [extractLsb'_zext32 _ (by decide)]
    ext i hi
    simp

section ReadPoint

variable {s : State} {k : BankNo} {j : BitVec 9}

theorem exec_readPoint_badIndex (hj : 360 ≤ j.toNat) : exec (.readPoint k j) s = .next s.badCommand :=
  exec_of_not_wf (i := .readPoint k j) (decide_eq_false hj.not_gt) s

theorem exec_readPoint_race (hj : j.toNat < 360) (hls : s.ls ≠ .idle) (hk : k = s.wrSel) :
    exec (.readPoint k j) s = .next (s.drew.respond .ok (pointWords (raceEntry s.draws))) := by
  simp [exec, execReadPoint, indexInRange, Config.npoints, State.racing, hj, hls, hk]

theorem exec_readPoint_stored (hj : j.toNat < 360) (h : s.ls = .idle ∨ k ≠ s.wrSel) :
    exec (.readPoint k j) s = .next (s.respond .ok (pointWords (s.scanEntry k j.toNat))) := by
  have hrace : s.racing k = false := by rcases h with h | h <;> simp [State.racing, h]
  simp [exec, execReadPoint, indexInRange, Config.npoints, hj, hrace]

end ReadPoint

/-- Settles O34: the three answers of R174, the last one read field by field. -/
theorem readPointAnswers : Obligations.ReadPointAnswers := by
  intro s k j
  refine ⟨fun hj => ?badIndex, fun hj hls hk => ?race, fun hj h => ?stored⟩
  case badIndex => exact ⟨_, exec_readPoint_badIndex hj, effect_respond s .badCmd []⟩
  case race =>
    have e := effect_respond s.drew .ok (pointWords (raceEntry s.draws))
    exact ⟨_, _, exec_readPoint_race hj hls hk, e.regs, e.memory, rfl, rfl, rfl, rfl, e.trace⟩
  case stored =>
    obtain ⟨d0, d1, d2, d3, hwords, hfields⟩ := exists_pointWords (s.scanEntry k j.toNat)
    have hexec := exec_readPoint_stored hj h
    rw [hwords] at hexec
    exact ⟨_, d0, d1, d2, d3, hexec, effect_respond s .ok _, hfields⟩

/-! ### The bank of the event (R177) -/

/-- The state ADJUST leaves at a gain the spec covers. -/
def adjusted (s : State) : State :=
  s |>.setDrive (BitVec.ofInt 16 s.newDrive) |>.writeDuty |>.setPhase .notify

theorem exec_adjust_of_gainInSpec {s : State} (h : gainInSpec s.params = true) :
    exec .adjust s = .next (adjusted s) := if_pos h

theorem adjusted_cbEn (s : State) : (adjusted s).cbEn = s.cbEn := by simp [adjusted]

theorem adjusted_speedSum (s : State) : (adjusted s).speedSum = s.speedSum := by simp [adjusted]

theorem adjusted_stable (s : State) : (adjusted s).stable = s.stable := by simp [adjusted, State.stable]

/-- The state NOTIFY leaves with a consumer registered. -/
def notified (s : State) : State :=
  s |>.setScanReady true |>.log (.scanReady s.speedSum s.stable) |>.setPhase .waitAck

theorem exec_notify_of_cbEn {s : State} (h : s.cbEn = true) : exec .notify s = .next (notified s) :=
  congrArg _ (if_pos h)

theorem notified_stable (s : State) : (notified s).stable = s.stable := by simp [notified, State.stable]

theorem getLast?_trace_notified (s : State) :
    (notified s).trace.getLast? = some (.scanReady s.speedSum s.stable) := by simp [notified]

theorem lastResponse_respond (s : State) (status : RespStatus) (data : List Word) :
    lastResponse (s.respond status data).trace = some (status.code, data) := by
  simp [lastResponse]

/-- Settles O37: ADJUST and NOTIFY keep `WR_SEL`, so event and SNAPSHOT name the bank PUBLISH made stable. -/
theorem callbackBankIsTheSnapshotBank : Obligations.CallbackBankIsTheSnapshotBank := by
  intro s hgain hcb
  have hadjust : exec .adjust (published s) = .next (adjusted (published s)) := exec_adjust_of_gainInSpec hgain
  have hnotify : exec .notify (adjusted (published s)) = .next (notified (adjusted (published s))) :=
    exec_notify_of_cbEn ((adjusted_cbEn _).trans hcb)
  refine ⟨_, _, _, exec_publish s, hadjust, hnotify, ?event, _, exec_snapshot _, ?answer⟩
  case event =>
    rw [getLast?_trace_notified, adjusted_speedSum, adjusted_stable, stable_published]
    rfl
  case answer =>
    rw [lastResponse_respond, notified_stable, adjusted_stable, stable_published]
    rfl

end Sys2Proof.Proofs

/-! Who writes the scan RAM (R171). Every step but DECODE and START leaves both banks as they are; DECODE leaves the
stable one, and a START leaves every bank as it was or clears its `VALID` bits. -/

namespace Sys2Proof.Proofs

open Sys2Proof.Machine

/-! ### Every step but DECODE and START -/

/-- Both banks read as before. -/
def scanKept (s t : State) : Prop := ∀ k, bankKept k s t

theorem scanKept_of_eq {s t : State} (h0 : t.bank0 = s.bank0) (h1 : t.bank1 = s.bank1) (hb : t.boots = s.boots) :
    scanKept s t := State.scanEntry_congr s t h0 h1 hb

theorem scanKept_ite {c : Prop} [Decidable c] {s t u : State} (ht : scanKept s t) (hu : scanKept s u) :
    scanKept s (if c then t else u) := by
  split
  · exact ht
  · exact hu

/-- A response writes no bank. -/
theorem scanKept.respond {s t : State} (h : scanKept s t) (status : RespStatus) (data : List Word) :
    scanKept s (t.respond status data) := h

theorem scanKept_of_exec {i : Instr} {s t : State} (hstart : i ≠ .start) (hdecode : i ≠ .decode)
    (h : exec i s = .next t) : scanKept s t := by
  cases i with
  | start => exact absurd rfl hstart
  | decode => exact absurd rfl hdecode
  | snapshot | readRpm | readDrive | readStatus | setTarget | readTarget | setCb | reserved0 | reservedCF
  | huntShort | hdr1Short | payloadShort | publish =>
    cases h
    exact scanKept_of_eq rfl rfl rfl
  | stopseq =>
    cases h
    exact scanKept_of_eq (by simp) (by simp) (by simp)
  | stop | scanAck =>
    cases h
    refine scanKept.respond ?_ _ _
    exact scanKept_ite (scanKept_of_eq rfl rfl rfl) (scanKept_of_eq rfl rfl rfl)
  | huntByte | top | validate | notify =>
    cases h
    exact scanKept_ite (scanKept_of_eq rfl rfl rfl) (scanKept_of_eq rfl rfl rfl)
  | readPoint | hdr1Byte =>
    cases h
    exact scanKept_ite (scanKept_of_eq rfl rfl rfl)
      (scanKept_ite (scanKept_of_eq rfl rfl rfl) (scanKept_of_eq rfl rfl rfl))
  | payloadByte d =>
    simp only [exec, execPayloadByte] at h
    split at h
    · cases h; exact (storeEffect_payloadByte s d).banks
    · cases h
  | adjust =>
    simp only [exec, execAdjust] at h
    split at h
    · cases h; exact scanKept_of_eq rfl rfl rfl
    · cases h

/-! ### START (R210) -/

/-- Clearing `VALID` in every entry of a bank changes no other field. -/
theorem entryOf_invalidated (boots : Nat) (k : BankNo) (j : Nat) (b : Bank) :
    { entryOf boots k j (Bank.cell (invalidated b) j) with valid := false }
      = { entryOf boots k j (Bank.cell b j) with valid := false } := by
  rw [cell_invalidated]
  split <;> rfl

/-- A START in IDLE leaves the banks as they were, or clears `VALID` in both. -/
theorem startSequence_bank (s : State) :
    (∀ k, s.startSequence.bank k = s.bank k) ∨ ∀ k, s.startSequence.bank k = invalidated (s.bank k) := by
  rcases s.startSequence_cases with ⟨-, h⟩ | ⟨-, -, h⟩ | ⟨-, -, -, h⟩ | ⟨-, -, -, h⟩ <;> rw [h]
  · exact .inl fun k => by simp [State.bank]
  · exact .inl fun k => by simp [State.bank]
  · exact .inl fun k => by simp [State.bank]
  · exact .inr fun k => by simp [State.bank, apply_ite invalidated]

theorem scanEntry_startSequence (s : State) (k : BankNo) (j : Nat) :
    { s.startSequence.scanEntry k j with valid := false } = { s.scanEntry k j with valid := false } := by
  rw [State.scanEntry, State.startSequence_boots]
  rcases startSequence_bank s with h | h <;> rw [h]
  · rfl
  · exact entryOf_invalidated s.boots k j (s.bank k)

theorem scanEntry_exec_start {s t : State} (h : exec .start s = .next t) (k : BankNo) (j : Nat) :
    { t.scanEntry k j with valid := false } = { s.scanEntry k j with valid := false } := by
  cases h
  split
  · rfl
  · exact scanEntry_startSequence s k j

/-- Settles O35: START and DECODE are the two writers, and DECODE's bank is not the stable one. -/
theorem onlyDecodeAndStartWriteTheScanRam : Obligations.OnlyDecodeAndStartWriteTheScanRam := by
  intro i s t h
  refine ⟨fun hstart => ?stable, fun hstart hdecode => scanKept_of_exec hstart hdecode h s.wrSel, ?start⟩
  case stable =>
    by_cases hdecode : i = .decode
    · subst hdecode
      cases (exec_decode s).symm.trans h
      exact bankKept_decoded_stable s
    · exact scanKept_of_exec hstart hdecode h s.stable
  case start =>
    rintro rfl
    exact scanEntry_exec_start h

end Sys2Proof.Proofs

/-! ADJUST (R190 to R193). The new drive is clamped before it is stored, and half of a 16-bit range fits the 16 bits of
`DRIVE`, so the stored word is the exact integer. -/

namespace Sys2Proof.Proofs

open Sys2Proof.Machine

theorem newDrive_nonneg (s : State) : 0 ≤ s.newDrive :=
  le_min (le_max_right _ _) (Int.natCast_nonneg _)

theorem newDrive_le_maxPwm (s : State) : s.newDrive ≤ (maxPwm s.pwmRange.toNat : Nat) := min_le_right _ _

/-- The ceiling of a 16-bit range fits 16 bits (R30, R31). -/
theorem maxPwm_lt (r : Half) : maxPwm r.toNat < 2 ^ 16 := (Nat.div_le_self _ 2).trans_lt r.isLt

theorem adjusted_drive (s : State) : (adjusted s).drive = BitVec.ofInt 16 s.newDrive := by simp [adjusted]

/-- The stored drive is the new drive, not its remainder (R191). -/
theorem toNat_adjusted_drive (s : State) : ((adjusted s).drive.toNat : Int) = s.newDrive := by
  have hnonneg := newDrive_nonneg s
  have hlt : s.newDrive < (2 ^ 16 : Nat) :=
    (newDrive_le_maxPwm s).trans_lt (Int.ofNat_lt.mpr (maxPwm_lt s.pwmRange))
  calc ((adjusted s).drive.toNat : Int)
      = s.newDrive % (2 ^ 16 : Nat) := by rw [adjusted_drive, BitVec.toNat_ofInt]; omega
    _ = s.newDrive := Int.emod_eq_of_lt hnonneg hlt

/-- A drive set and written on the way to NOTIFY, whatever its value. -/
theorem effect_driveWritten (s : State) (v : Half) :
    Effect s (s |>.setDrive v |>.writeDuty |>.setPhase .notify) { s.regs with drive := v, phase := .notify }
      [.call (.writeDuty s.params.pwmChannel v) .nothing] where
  regs := rfl
  memory := ⟨State.frameByte_congr s _ rfl rfl, State.scanEntry_congr s _ rfl rfl rfl⟩
  trace := rfl
  world := ⟨rfl, rfl, rfl, rfl, rfl⟩

theorem effect_adjusted (s : State) :
    Effect s (adjusted s) { s.regs with drive := (adjusted s).drive, phase := .notify }
      [.call (.writeDuty s.params.pwmChannel (adjusted s).drive) .nothing] := by
  rw [adjusted_drive]
  exact effect_driveWritten s _

/-- Settles O40: the new drive of the model is the clamped sum of R190 and R191, and ADJUST stores it exactly. -/
theorem adjustMovesTheDrive : Obligations.AdjustMovesTheDrive := fun s hgain =>
  ⟨adjusted s, exec_adjust_of_gainInSpec hgain, toNat_adjusted_drive s, effect_adjusted s⟩

end Sys2Proof.Proofs

/-! A successful START (R199, R210, R264). The start sequence is cut at its calls: the state after GPIO init and the
state after the PWM set-up have their answers, draws and trace said once, and `beginRun` ends the sequence. -/

namespace Sys2Proof.Proofs

open Sys2Proof.Machine

/-! ### The PWM set-up (R210) -/

/-- The calls of the PWM set-up in their order, whatever they answer. -/
theorem trace_setUpPwm (s : State) :
    s.setUpPwm.2.trace = s.trace ++
      ([.call (.setMode s.params.pwmChannel .output) .nothing,
       .call (.setFrequency s.params.pwmChannel s.params.pwmFreqHz) .nothing,
       .call (.getRealRange s.params.pwmChannel) (.number s.callRealRange.1)] : List Obs)
      ++ (if s.params.realRangeLo < s.callRealRange.1 ∧ s.callRealRange.1 < s.params.realRangeHi then
            [.call (.setRange s.params.pwmChannel s.callRealRange.1) .nothing] else [])
      ++ [.call (.getRange s.params.pwmChannel) (.numberOrFail s.setUpPwm.1)] := by
  have hanswer (r r' : Request) : ((s.call r).call r').callRealRange.1 = s.callRealRange.1 := rfl
  by_cases hwindow : s.params.realRangeLo < s.callRealRange.1 ∧ s.callRealRange.1 < s.params.realRangeHi <;>
    simp [State.setUpPwm, hanswer, ← Bool.decide_and, hwindow]

/-- The state in which the PWM set-up asks for the range: the real range answered, and set where R210 says so. -/
def afterRealRange (s : State) : State :=
  let c := s.params.pwmChannel
  let r := (s |>.call (.setMode c .output) |>.call (.setFrequency c s.params.pwmFreqHz)).callRealRange
  if decide (s.params.realRangeLo < r.1) && decide (r.1 < s.params.realRangeHi) then r.2.call (.setRange c r.1) else r.2

theorem setUpPwm_eq_callRange (s : State) : s.setUpPwm = (afterRealRange s).callRange := rfl

theorem afterRealRange_fixed {s : State} {rr : Int} (h : s.answers.realRange = some rr) :
    (afterRealRange s).draws = s.draws
      ∧ (afterRealRange s).answers = { s.answers with realRange := none } := by
  obtain ⟨-, hdraws, hanswers⟩ := State.callRealRange_fixed
    (s |>.call (.setMode s.params.pwmChannel .output)
      |>.call (.setFrequency s.params.pwmChannel s.params.pwmFreqHz)) rr h
  constructor
  · simpa [afterRealRange, apply_ite State.draws] using hdraws
  · simpa [afterRealRange, apply_ite State.answers] using hanswers

/-- With both answers fixed the PWM set-up uses them up and draws nothing. -/
theorem setUpPwm_fixed {s : State} {rr : Int} {g : Option Int} (hreal : s.answers.realRange = some rr)
    (hrange : s.answers.range = some g) :
    s.setUpPwm.1 = g ∧ s.setUpPwm.2.draws = s.draws
      ∧ s.setUpPwm.2.answers = { s.answers with realRange := none, range := none } := by
  obtain ⟨hdraws, hanswers⟩ := afterRealRange_fixed hreal
  have h := State.callRange_fixed (afterRealRange s) g (by rw [hanswers, hrange])
  rwa [hdraws, hanswers] at h

/-! ### Up to the PWM set-up (R210) -/

/-- The state after the first call of the start sequence. -/
def afterOpen (s : State) : State := (s |>.setLs .starting |>.setErr .none).callOpen.2

/-- The state after its second call. -/
def afterGpioInit (s : State) : State := (afterOpen s).callGpioInit.2

/-- The state after its PWM set-up, with every answer in. -/
def afterPwmSetUp (s : State) : State := (afterGpioInit s).setUpPwm.2

@[simp] theorem afterGpioInit_params (s : State) : (afterGpioInit s).params = s.params := by
  simp [afterGpioInit, afterOpen]

/-! What the calls of the start sequence leave unchanged. -/

@[simp] theorem afterPwmSetUp_params (s : State) : (afterPwmSetUp s).params = s.params := by
  simp [afterPwmSetUp, afterGpioInit, afterOpen]
@[simp] theorem afterPwmSetUp_frame (s : State) : (afterPwmSetUp s).frame = s.frame := by
  simp [afterPwmSetUp, afterGpioInit, afterOpen]
@[simp] theorem afterPwmSetUp_bank0 (s : State) : (afterPwmSetUp s).bank0 = s.bank0 := by
  simp [afterPwmSetUp, afterGpioInit, afterOpen]
@[simp] theorem afterPwmSetUp_bank1 (s : State) : (afterPwmSetUp s).bank1 = s.bank1 := by
  simp [afterPwmSetUp, afterGpioInit, afterOpen]
@[simp] theorem afterPwmSetUp_boots (s : State) : (afterPwmSetUp s).boots = s.boots := by
  simp [afterPwmSetUp, afterGpioInit, afterOpen]
@[simp] theorem afterPwmSetUp_turns (s : State) : (afterPwmSetUp s).turns = s.turns := by
  simp [afterPwmSetUp, afterGpioInit, afterOpen]
@[simp] theorem afterPwmSetUp_rx (s : State) : (afterPwmSetUp s).rx = s.rx := by
  simp [afterPwmSetUp, afterGpioInit, afterOpen]

/-- What the fixed answers make of the start sequence: each call has its own, and nothing is drawn. -/
theorem startSequence_answers_fixed {s : State} {o i : Bool} {rr : Int} {g : Option Int}
    (h : s.answers = { transportOpen := some o, gpioInit := some i, realRange := some rr, range := some g }) :
    (s |>.setLs .starting |>.setErr .none).callOpen.1 = o ∧ (afterOpen s).callGpioInit.1 = i
      ∧ (afterGpioInit s).callRealRange.1 = rr ∧ (afterGpioInit s).setUpPwm.1 = g
      ∧ (afterPwmSetUp s).draws = s.draws ∧ (afterPwmSetUp s).answers = Answers.free := by
  obtain ⟨hopen, hopenDraws, hopenAnswers⟩ :
      _ ∧ (afterOpen s).draws = s.draws ∧ (afterOpen s).answers = _ :=
    State.callOpen_fixed (s |>.setLs .starting |>.setErr .none) o (by simp [h])
  obtain ⟨hgpio, hgpioDraws, hgpioAnswers⟩ :
      _ ∧ (afterGpioInit s).draws = _ ∧ (afterGpioInit s).answers = _ :=
    State.callGpioInit_fixed (afterOpen s) i (by simp [hopenAnswers, h])
  have hreal : (afterGpioInit s).answers.realRange = some rr := by simp [hgpioAnswers, hopenAnswers, h]
  obtain ⟨hrange, hpwmDraws, hpwmAnswers⟩ :
      _ ∧ (afterPwmSetUp s).draws = _ ∧ (afterPwmSetUp s).answers = _ :=
    setUpPwm_fixed (g := g) hreal (by simp [hgpioAnswers, hopenAnswers, h])
  refine ⟨hopen, hgpio, (State.callRealRange_fixed _ rr hreal).1, hrange, ?_, ?_⟩
  · rw [hpwmDraws, hgpioDraws, hopenDraws]
  · simp [hpwmAnswers, hgpioAnswers, hopenAnswers, h, Answers.free]

theorem trace_afterGpioInit (s : State) :
    (afterGpioInit s).trace = s.trace ++
      ([.call (.transportOpen s.params.serialPath s.params.line)
        (.okOrFail (s |>.setLs .starting |>.setErr .none).callOpen.1),
       .call .gpioInit (.okOrFail (afterOpen s).callGpioInit.1)] : List Obs) := by
  simp [afterGpioInit, afterOpen]

theorem trace_afterPwmSetUp (s : State) : (afterPwmSetUp s).trace = s.trace ++
      ([.call (.transportOpen s.params.serialPath s.params.line)
        (.okOrFail (s |>.setLs .starting |>.setErr .none).callOpen.1),
       .call .gpioInit (.okOrFail (afterOpen s).callGpioInit.1),
       .call (.setMode s.params.pwmChannel .output) .nothing,
       .call (.setFrequency s.params.pwmChannel s.params.pwmFreqHz) .nothing,
       .call (.getRealRange s.params.pwmChannel) (.number (afterGpioInit s).callRealRange.1)] : List Obs)
      ++ (if s.params.realRangeLo < (afterGpioInit s).callRealRange.1
              ∧ (afterGpioInit s).callRealRange.1 < s.params.realRangeHi then
            [.call (.setRange s.params.pwmChannel (afterGpioInit s).callRealRange.1) .nothing] else [])
      ++ [.call (.getRange s.params.pwmChannel) (.numberOrFail (afterGpioInit s).setUpPwm.1)] := by
  rw [afterPwmSetUp, trace_setUpPwm, afterGpioInit_params, trace_afterGpioInit]
  simp only [List.append_assoc, List.cons_append, List.nil_append]

theorem regs_afterPwmSetUp (s : State) :
    (afterPwmSetUp s).regs = { s.regs with ls := .starting, err := .none } := by
  simp [State.regs, afterPwmSetUp, afterGpioInit, afterOpen]

theorem scanEntry_afterPwmSetUp (s : State) (k : BankNo) (j : Nat) :
    (afterPwmSetUp s).scanEntry k j = s.scanEntry k j := by
  apply State.scanEntry_congr <;> simp

theorem badRange_some_of_legal {p : Config.Params} {g : Nat} (hmin : p.rangeMin ≤ g) (hmax : g ≤ 65535) :
    badRange p (some (g : Int)) = false := by
  simp [badRange, Config.rangeMax, hmin, hmax]

/-- Good answers leave one of the four ends of the start sequence. -/
theorem startSequence_of_good (s : State) {g : Nat}
    (hopen : (s |>.setLs .starting |>.setErr .none).callOpen.1 = true)
    (hgpio : (afterOpen s).callGpioInit.1 = true)
    (hrange : (afterGpioInit s).setUpPwm.1 = some (g : Int)) (hlegal : badRange s.params (some (g : Int)) = false) :
    s.startSequence = (afterPwmSetUp s).beginRun g := by
  rcases s.startSequence_cases with ⟨hfail, -⟩ | ⟨-, hfail, -⟩ | ⟨-, -, hfail, -⟩ | ⟨-, -, -, hrun⟩
  · exact absurd (hopen.symm.trans hfail) (by decide)
  · exact absurd (hgpio.symm.trans hfail) (by decide)
  · replace hfail : badRange s.params (afterGpioInit s).setUpPwm.1 = true := hfail
    rw [hrange] at hfail
    exact absurd (hlegal.symm.trans hfail) (by decide)
  · replace hrun : s.startSequence = (afterPwmSetUp s).beginRun ((afterGpioInit s).setUpPwm.1.getD 0).toNat := hrun
    rwa [hrange] at hrun

/-! ### The end of a successful START -/

theorem exec_start_of_idle {s : State} (h : s.ls = .idle) : exec .start s = .next s.startSequence :=
  congrArg _ (if_neg (not_not_intro h))

theorem regs_beginRun (s : State) (g : Nat) :
    (s.beginRun g).regs = { s.regs with
      ls := .running, phase := .top, count := 0#11, stopReq := false, wrSel := 0#1
      speedSum := 0#23, pwmRange := BitVec.ofNat 16 g, drive := BitVec.ofNat 16 (presetDrive g)
      scanReady := false } := by
  simp [State.regs]

theorem scanEntry_beginRun (s : State) (g : Nat) (k : BankNo) (j : Nat) :
    (s.beginRun g).scanEntry k j = entryOf s.boots k j (Bank.cell (invalidated (s.bank k)) j) := by
  simp [State.scanEntry, State.bank, apply_ite invalidated]

/-- `VALID` is cleared in every entry there is (R210). -/
theorem scanEntry_beginRun_of_lt (s : State) (g : Nat) (k : BankNo) {j : Nat} (hj : j < 360) :
    (s.beginRun g).scanEntry k j = { s.scanEntry k j with valid := false } := by
  rw [scanEntry_beginRun, cell_invalidated, if_pos (show j < Config.npoints from hj)]
  rfl

theorem scanEntry_beginRun_of_ge (s : State) (g : Nat) (k : BankNo) {j : Nat} (hj : 360 ≤ j) :
    (s.beginRun g).scanEntry k j = s.scanEntry k j := by
  rw [scanEntry_beginRun, cell_invalidated, if_neg (show ¬ j < Config.npoints from hj.not_gt)]
  rfl

/-- Settles O43: good answers leave the start sequence only its end `beginRun`, in the state after the PWM set-up. -/
theorem startWithGoodAnswersRuns : Obligations.StartWithGoodAnswersRuns := by
  intro s g rr hidle hmin hmax h
  obtain ⟨hopen, hgpio, hreal, hrange, hdraws, hanswers⟩ := startSequence_answers_fixed h
  have hrun : exec .start s = .next ((afterPwmSetUp s).beginRun g) := by
    rw [exec_start_of_idle hidle, startSequence_of_good s hopen hgpio hrange (badRange_some_of_legal hmin hmax)]
  refine ⟨_, hrun, ?regs, fun k j hj => ?cleared, fun k j hj => ?kept, ?frame, ?answers, ?turns, ?rx, ?draws,
    ?boots, ?trace⟩
  case regs => rw [regs_beginRun, regs_afterPwmSetUp]; rfl
  case cleared => rw [scanEntry_beginRun_of_lt _ g k hj, scanEntry_afterPwmSetUp]
  case kept => rw [scanEntry_beginRun_of_ge _ g k hj, scanEntry_afterPwmSetUp]
  case frame => apply State.frameByte_congr <;> simp
  case answers => rw [State.beginRun_answers, hanswers]
  case draws => rw [State.beginRun_draws, hdraws]
  case turns | rx | boots => simp
  case trace =>
    rw [State.beginRun_trace, trace_afterPwmSetUp, hopen, hgpio, hreal, hrange, afterPwmSetUp_params,
      List.append_assoc]
    rfl

end Sys2Proof.Proofs

/-! The steps of the lifecycle and of the handshake (R212, R215 to R217, R219 to R221). Each writes registers and is
observed, and leaves both RAMs and the world alone; where its rule has a test, there is one equation per outcome. -/

namespace Sys2Proof.Proofs

open Sys2Proof.Machine

/-! ### Steps that write registers alone -/

/-- With both RAMs and the world as they were, the effect of a step is its registers and what was observed. -/
theorem effect_of_registers {s t : State} {r : Regs} {obs : List Obs} (hregs : t.regs = r)
    (hram : (t.frame, t.bank0, t.bank1) = (s.frame, s.bank0, s.bank1))
    (hworld : (t.turns, t.rx, t.answers, t.draws, t.boots) = (s.turns, s.rx, s.answers, s.draws, s.boots))
    (htrace : t.trace = s.trace ++ obs) : Effect s t r obs := by
  simp only [Prod.mk.injEq] at hram hworld
  obtain ⟨hframe, hbank0, hbank1⟩ := hram
  obtain ⟨hturns, hrx, hanswers, hdraws, hboots⟩ := hworld
  exact ⟨hregs, ⟨State.frameByte_congr s t hframe hboots, State.scanEntry_congr s t hbank0 hbank1 hboots⟩,
    htrace, hturns, hrx, hanswers, hdraws, hboots⟩

/-- A response after registers were written unobserved. -/
theorem effect_respond_of_unobserved {s t : State} {r : Regs} (e : Effect s t r []) (status : RespStatus)
    (data : List Word) : Effect s (t.respond status data) r [.response status.code data] where
  regs := e.regs
  memory := e.memory
  trace := by rw [State.respond_trace, e.trace, List.append_nil]
  world := e.world

/-! ### TOP (R215) -/

section Top

variable {s : State}

theorem exec_top_of_stopReq (h : s.stopReq = true) :
    exec .top s = .next (s |>.setLs .stopping |>.setPhase .stopseq) := congrArg _ (if_pos h)

theorem exec_top_of_not_stopReq (h : ¬ s.stopReq = true) : exec .top s = .next s.rehunt := congrArg _ (if_neg h)

end Top

theorem effect_stopping (s : State) :
    Effect s (s |>.setLs .stopping |>.setPhase .stopseq) { s.regs with ls := .stopping, phase := .stopseq } [] :=
  effect_of_registers rfl rfl rfl (List.append_nil _).symm

/-- Settles O46: the two outcomes of the one test of the stop flag; going on is hunting from scratch. -/
theorem topReadsTheStopFlag : Obligations.TopReadsTheStopFlag := by
  intro s
  cases h : s.stopReq with
  | true => exact ⟨_, exec_top_of_stopReq h, fun _ => effect_stopping s, nofun⟩
  | false => exact ⟨_, exec_top_of_not_stopReq (by simp [h]), nofun, fun _ => effect_rehunt s⟩

/-! ### STOPSEQ (R216) -/

/-- The state STOPSEQ leaves. -/
def stopped (s : State) : State :=
  s |>.setDrive 0#16 |>.writeDuty |>.releaseAll |>.setStopReq false |>.setLs .idle |>.setPhase .idle

theorem exec_stopseq (s : State) : exec .stopseq s = .next (stopped s) := rfl

/-- Settles O47: the calls of `stopped` are the ones observed, and its writes are those four registers. -/
theorem stopSequenceReleasesEverything : Obligations.StopSequenceReleasesEverything := fun s =>
  ⟨stopped s, exec_stopseq s, effect_of_registers (by simp [stopped, State.regs]) (by simp [stopped])
    (by simp [stopped]) (by simp [stopped])⟩

/-! ### The handshake (R217, R221) -/

/-- The state SCAN_ACK leaves in WAIT_ACK. -/
def acknowledged (s : State) : State := s |>.setScanReady false |>.setPhase .top |>.respond .ok []

section Handshake

variable {s : State}

theorem exec_notify_of_not_cbEn (h : ¬ s.cbEn = true) : exec .notify s = .next (s.setPhase .top) :=
  congrArg _ (if_neg h)

theorem exec_scanAck_of_waitAck (h : s.phase = .waitAck) : exec .scanAck s = .next (acknowledged s) := by
  simp only [exec, execScanAck, if_pos h, acknowledged]

theorem exec_scanAck_of_not_waitAck (h : s.phase ≠ .waitAck) : exec .scanAck s = .next (s.respond .ok []) := by
  simp only [exec, execScanAck, if_neg h]

end Handshake

theorem effect_notified (s : State) :
    Effect s (notified s) { s.regs with scanReady := true, phase := .waitAck } [.scanReady s.speedSum s.stable] :=
  effect_of_registers rfl rfl rfl rfl

theorem effect_acknowledged (s : State) :
    Effect s (acknowledged s) { s.regs with scanReady := false, phase := .top } [.response 0#32 []] :=
  effect_of_registers rfl rfl rfl rfl

/-- Settles O48: both outcomes of NOTIFY, then both of SCAN_ACK. -/
theorem notifyAndScanAckHandshake : Obligations.NotifyAndScanAckHandshake := by
  refine fun s => ⟨?notify, ?scanAck⟩
  case notify =>
    cases h : s.cbEn with
    | true => exact ⟨_, exec_notify_of_cbEn h, fun _ => effect_notified s, nofun⟩
    | false =>
      exact ⟨_, exec_notify_of_not_cbEn (by simp [h]), nofun,
        fun _ => effect_of_registers rfl rfl rfl (List.append_nil _).symm⟩
  case scanAck =>
    by_cases h : s.phase = .waitAck
    · exact ⟨_, exec_scanAck_of_waitAck h, fun _ => effect_acknowledged s, (absurd h ·)⟩
    · exact ⟨_, exec_scanAck_of_not_waitAck h, (absurd · h), fun _ => effect_respond s .ok []⟩

/-! ### The commands that write one register (R212, R219, R220) -/

/-- STOP is remembered only while acquisition runs. -/
def stopRequested (s : State) : State := s.setStopReq (if s.ls = .running then true else s.stopReq)

theorem exec_stop (s : State) : exec .stop s = .next ((stopRequested s).respond .ok []) := by
  by_cases h : s.ls = .running
  · simp only [exec, execStop, stopRequested, if_pos h]
  · simp only [exec, execStop, stopRequested, if_neg h]
    rfl

theorem exec_setTarget (v : Half) (s : State) :
    exec (.setTarget v) s = .next ((s.setTarget v).respond .ok []) := rfl

theorem exec_setCb (e : BitVec 1) (s : State) :
    exec (.setCb e) s = .next ((s.setCbEn (decide (e = 1#1))).respond .ok []) := rfl

theorem effect_stopRequested (s : State) :
    Effect s (stopRequested s) { s.regs with stopReq := if s.ls = .running then true else s.stopReq } [] :=
  effect_of_registers rfl rfl rfl (List.append_nil _).symm

theorem effect_setTarget (s : State) (v : Half) : Effect s (s.setTarget v) { s.regs with target := v } [] :=
  effect_of_registers rfl rfl rfl (List.append_nil _).symm

theorem effect_setCbEn (s : State) (b : Bool) : Effect s (s.setCbEn b) { s.regs with cbEn := b } [] :=
  effect_of_registers rfl rfl rfl (List.append_nil _).symm

/-- Settles O49: each command is its one register write, answered. -/
theorem commandsWriteOneRegister : Obligations.CommandsWriteOneRegister := fun s =>
  ⟨⟨_, exec_stop s, effect_respond_of_unobserved (effect_stopRequested s) .ok []⟩,
    fun v => ⟨_, exec_setTarget v s, effect_respond_of_unobserved (effect_setTarget s v) .ok []⟩,
    ⟨_, exec_setCb 1#1 s, effect_respond_of_unobserved (effect_setCbEn s true) .ok []⟩,
    _, exec_setCb 0#1 s, effect_respond_of_unobserved (effect_setCbEn s false) .ok []⟩

end Sys2Proof.Proofs

/-! A fatal START (R211, R241). Each of the three fatal ends of the start sequence is read off the trace of the calls
made so far; the fourth end leaves no error. -/

namespace Sys2Proof.Proofs

open Sys2Proof.Machine

/-- An answer of `get_range` that START does not accept names no legal range (R210). -/
theorem range_illegal_of_badRange {p : Config.Params} {g : Option Int} (h : badRange p g = true) (n : Int)
    (hn : g = some n) : n < p.rangeMin ∨ 65535 < n := by
  subst hn
  simp only [badRange, Bool.or_eq_true, decide_eq_true_eq] at h
  exact h

theorem trace_afterOpen (s : State) :
    (afterOpen s).trace = s.trace ++
      [.call (.transportOpen s.params.serialPath s.params.line)
        (.okOrFail (s |>.setLs .starting |>.setErr .none).callOpen.1)] := by
  simp [afterOpen]

theorem err_afterPwmSetUp (s : State) : (afterPwmSetUp s).err = .none :=
  congrArg Regs.err (regs_afterPwmSetUp s)

/-- The ends of the start sequence, by the states after its calls: three fatal ones, and the run. -/
theorem startSequence_ends (s : State) :
    ((s |>.setLs .starting |>.setErr .none).callOpen.1 = false
        ∧ s.startSequence = (afterOpen s).fatalStart .transportOpen)
      ∨ ((s |>.setLs .starting |>.setErr .none).callOpen.1 = true ∧ (afterOpen s).callGpioInit.1 = false
          ∧ s.startSequence = ((afterGpioInit s).call .transportClose).fatalStart .gpioInit)
      ∨ ((s |>.setLs .starting |>.setErr .none).callOpen.1 = true ∧ (afterOpen s).callGpioInit.1 = true
          ∧ badRange s.params (afterGpioInit s).setUpPwm.1 = true
          ∧ s.startSequence = (afterPwmSetUp s).releaseAll.fatalStart .pwmRange)
      ∨ ∃ g, s.startSequence = (afterPwmSetUp s).beginRun g := by
  rcases s.startSequence_cases with hopen | hgpio | hrange | ⟨-, -, -, hrun⟩
  · exact .inl hopen
  · exact .inr (.inl hgpio)
  · exact .inr (.inr (.inl hrange))
  · exact .inr (.inr (.inr ⟨_, hrun⟩))

/-- Settles O45: the trace of each fatal end; the successful one is ruled out by its `ERR`. -/
theorem fatalStartReleasesWhatItAcquired : Obligations.FatalStartReleasesWhatItAcquired := by
  intro s t hidle hexec herr
  cases (exec_start_of_idle hidle).symm.trans hexec
  rcases startSequence_ends s with ⟨hopen, hend⟩ | ⟨hopen, hgpio, hend⟩ | ⟨hopen, hgpio, hrange, hend⟩ | ⟨g, hend⟩
  · refine ⟨[_, _], ?_, rfl, .inl ⟨rfl, by rw [hend, State.fatalStart_err]⟩⟩
    rw [hend, State.fatalStart_trace, trace_afterOpen, hopen, List.append_assoc]
    rfl
  · refine ⟨[_, _, _, _], ?_, rfl, .inr (.inl ⟨rfl, by rw [hend, State.fatalStart_err]⟩)⟩
    rw [hend, State.fatalStart_trace, State.call_trace, trace_afterGpioInit, hopen, hgpio, List.append_assoc,
      List.append_assoc]
    rfl
  · refine ⟨_, ?_, ?_, .inr (.inr ⟨by rw [hend, State.fatalStart_err], (afterGpioInit s).callRealRange.1,
      (afterGpioInit s).setUpPwm.1, range_illegal_of_badRange hrange, rfl⟩)⟩
    · rw [hend, State.fatalStart_trace, State.releaseAll_trace, trace_afterPwmSetUp, hopen, hgpio,
        afterPwmSetUp_params]
      simp only [List.append_assoc, List.cons_append, List.nil_append]
      rfl
    · split <;> rfl
  · rw [hend, State.beginRun_err, err_afterPwmSetUp] at herr
    exact absurd rfl herr

end Sys2Proof.Proofs

/-! What one agent's step does to the ENGINE's place (R213, R214, R218). A step that is no power-on reset leaves the
ENGINE waiting, or is a START in IDLE, a SCAN_ACK in WAIT_ACK, an internal step or a token step. The statements about
`LS`, `PHASE` and WAIT_ACK are read off this one case split. -/

namespace Sys2Proof.Proofs

open Sys2Proof.Machine

/-! ### The ENGINE waits -/

/-- No read of the TRANSPORT is requested (R121). -/
def noRead (obs : List Obs) : Prop := ∀ n a, Obs.call (.transportRead n) a ∉ obs

/-- From `s` to `t` the ENGINE has not moved, and the token stream, the banks and the handshake flag are as they
were. -/
structure EngineWaits (s t : State) : Prop extends EngineHeld s t where
  rx : t.rx = s.rx
  wrSel : t.wrSel = s.wrSel
  scanReady : t.scanReady = s.scanReady
  trace : ∃ obs, t.trace = s.trace ++ obs ∧ noRead obs

theorem EngineWaits.of_unobserved {s t : State} (held : EngineHeld s t)
    (h : (t.rx, t.wrSel, t.scanReady, t.trace) = (s.rx, s.wrSel, s.scanReady, s.trace)) : EngineWaits s t := by
  simp only [Prod.mk.injEq] at h
  obtain ⟨hrx, hwrSel, hready, htrace⟩ := h
  exact ⟨held, hrx, hwrSel, hready, [], by rw [htrace, List.append_nil], nofun⟩

theorem EngineWaits.refl (s : State) : EngineWaits s s := .of_unobserved (.refl s) rfl

theorem EngineWaits.trans {s t u : State} (h : EngineWaits s t) (h' : EngineWaits t u) : EngineWaits s u := by
  obtain ⟨obs, htrace, hread⟩ := h.trace
  obtain ⟨obs', htrace', hread'⟩ := h'.trace
  refine ⟨h.toEngineHeld.trans h'.toEngineHeld, h'.rx.trans h.rx, h'.wrSel.trans h.wrSel,
    h'.scanReady.trans h.scanReady, obs ++ obs', by rw [htrace', htrace, List.append_assoc], fun n a hmem => ?_⟩
  exact (List.mem_append.mp hmem).elim (hread n a) (hread' n a)

theorem noRead_response (status : Word) (data : List Word) : noRead [.response status data] := by
  simp [noRead]

theorem engineWaits_respond (s : State) (status : RespStatus) (data : List Word) :
    EngineWaits s (s.respond status data) :=
  ⟨(EngineHeld.refl s).respond status data, rfl, rfl, rfl, _, rfl, noRead_response _ _⟩

theorem EngineWaits.respond {s t : State} (h : EngineWaits s t) (status : RespStatus) (data : List Word) :
    EngineWaits s (t.respond status data) := h.trans (engineWaits_respond t status data)

theorem engineWaits_setTurns (s : State) (ts : List Turn) : EngineWaits s (s.setTurns ts) :=
  .of_unobserved (engineHeld_setTurns s ts) rfl

theorem engineWaits_fixAnswer (s : State) (a : FixedAnswer) : EngineWaits s (s.fixAnswer a) :=
  .of_unobserved (engineHeld_fixAnswer s a) rfl

/-! What a host command writes that the ENGINE's place does not depend on. -/

theorem engineWaits_stopRequested (s : State) : EngineWaits s (stopRequested s) :=
  .of_unobserved ⟨rfl, rfl, rfl, rfl, rfl, rfl, rfl⟩ rfl

theorem engineWaits_setTarget (s : State) (v : Half) : EngineWaits s (s.setTarget v) :=
  .of_unobserved ⟨rfl, rfl, rfl, rfl, rfl, rfl, rfl⟩ rfl

theorem engineWaits_setCbEn (s : State) (b : Bool) : EngineWaits s (s.setCbEn b) :=
  .of_unobserved ⟨rfl, rfl, rfl, rfl, rfl, rfl, rfl⟩ rfl

theorem engineWaits_drew (s : State) : EngineWaits s s.drew :=
  .of_unobserved ⟨rfl, rfl, rfl, rfl, rfl, rfl, rfl⟩ rfl

/-! ### Host commands -/

theorem exec_start_of_not_idle {s : State} (h : s.ls ≠ .idle) : exec .start s = .next (s.respond .ok [1#32]) :=
  congrArg _ (if_pos h)

/-- Every host command leaves the ENGINE waiting but a START in IDLE and a SCAN_ACK in WAIT_ACK. -/
theorem engineWaits_of_exec_command {i : Instr} {s t : State} (hi : i.isEngineStep = false)
    (hstart : i = .start → s.ls ≠ .idle) (hack : i = .scanAck → s.phase ≠ .waitAck) (h : exec i s = .next t) :
    EngineWaits s t := by
  cases i with
  | start =>
    cases (exec_start_of_not_idle (hstart rfl)).symm.trans h
    exact engineWaits_respond s _ _
  | scanAck =>
    cases (exec_scanAck_of_not_waitAck (hack rfl)).symm.trans h
    exact engineWaits_respond s _ _
  | stop =>
    cases (exec_stop s).symm.trans h
    exact (engineWaits_stopRequested s).respond _ _
  | setTarget v =>
    cases (exec_setTarget v s).symm.trans h
    exact (engineWaits_setTarget s v).respond _ _
  | setCb e =>
    cases (exec_setCb e s).symm.trans h
    exact (engineWaits_setCbEn s _).respond _ _
  | readPoint k j =>
    simp only [exec, execReadPoint, Host.Outcome.next.injEq] at h
    split_ifs at h <;> subst h
    · exact engineWaits_respond s _ _
    · exact (engineWaits_drew s).respond _ _
    · exact engineWaits_respond s _ _
  | snapshot | readRpm | readDrive | readStatus | readTarget | reserved0 | reservedCF =>
    cases h
    exact engineWaits_respond s _ _
  | huntByte | huntShort | hdr1Byte | hdr1Short | payloadByte | payloadShort
  | top | validate | decode | publish | adjust | notify | stopseq => cases hi

/-- The next turn is the HOST's, with the command `i`. -/
def GivesCommand (s : State) (i : Instr) : Prop :=
  ∃ c, s.turns.head? = some (.host c) ∧ decode (.command c) = .instr i

theorem givesCommand_iff {s : State} {i : Instr} {w : Word} (hencode : encode i = .command w)
    (hdecode : decode (.command w) = .instr i) : GivesCommand s i ↔ s.turns.head? = some (.host w) := by
  constructor
  · rintro ⟨c, hhead, hc⟩
    have hword : Wire.command c = .command w := (encode_of_decode_command hc).symm.trans hencode
    rw [hhead, Wire.command.inj hword]
  · exact fun hhead => ⟨w, hhead, hdecode⟩

theorem givesCommand_start_iff {s : State} :
    GivesCommand s .start ↔ s.turns.head? = some (.host 0x10000000#32) := givesCommand_iff rfl rfl

theorem givesCommand_stop_iff {s : State} :
    GivesCommand s .stop ↔ s.turns.head? = some (.host 0x20000000#32) := givesCommand_iff rfl rfl

theorem givesCommand_scanAck_iff {s : State} :
    GivesCommand s .scanAck ↔ s.turns.head? = some (.host 0xB0000000#32) := givesCommand_iff rfl rfl

theorem eq_of_givesCommand {s : State} {c : Word} {ts : List Turn} {i j : Instr} (hturns : s.turns = .host c :: ts)
    (hd : decode (.command c) = .instr i) (h : GivesCommand s j) : j = i := by
  obtain ⟨c', hhead, hd'⟩ := h
  rw [hturns] at hhead
  cases hhead
  exact Decoded.instr.inj (hd'.symm.trans hd)

/-! ### The case split -/

/-- What a step from `s` to `t` that is no power-on reset has been: nothing the ENGINE's place depends on, a START in
IDLE, a SCAN_ACK in WAIT_ACK, an internal step, or a token step. -/
inductive AgentStep (s t : State) : Prop
  | waits (held : EngineWaits s t) (hstart : GivesCommand s .start → s.ls ≠ .idle)
      (hstop : GivesCommand s .stop → s.ls = .running → t.stopReq = true)
      (hack : GivesCommand s .scanAck → s.phase ≠ .waitAck)
  | start (given : GivesCommand s .start) (hidle : s.ls = .idle) (ts : List Turn)
      (ht : t = (s.setTurns ts).startSequence)
  | ack (given : GivesCommand s .scanAck) (hphase : s.phase = .waitAck) (ts : List Turn)
      (ht : t = acknowledged (s.setTurns ts))
  | internal (free : ∀ i, ¬ GivesCommand s i) (hpair : s.ls = s.phase.lifecycle)
      (hstep : s.phase.hasInternalStep = true) (ts : List Turn)
      (hexec : exec (internalInstr s.phase) (s.setTurns ts) = .next t)
  | token (free : ∀ i, ¬ GivesCommand s i) (hpair : s.ls = s.phase.lifecycle) (htakes : s.phase.takesToken = true)
      (ts : List Turn) (tok : Token) (more : List Token) (hrx : s.rx = tok :: more)
      (hexec : exec (tokenInstr s.phase tok) ((s.setTurns ts).setRx more) = .next t)

theorem AgentStep.of_no_command {s t : State} (held : EngineWaits s t) (free : ∀ i, ¬ GivesCommand s i) :
    AgentStep s t := .waits held (absurd · (free _)) (absurd · (free _)) (absurd · (free _))

theorem stopReq_of_exec_stop {s t : State} (h : exec .stop s = .next t) (hls : s.ls = .running) :
    t.stopReq = true := by
  cases (exec_stop s).symm.trans h
  simp [stopRequested, hls]

theorem agentStep_of_command {c : Word} {s t : State} {ts : List Turn} (hturns : s.turns = .host c :: ts)
    (h : runInput (.command c) (s.setTurns ts) = .next t) : AgentStep s t := by
  have hset := engineWaits_setTurns s ts
  cases hd : decode (.command c) with
  | rejected e =>
    simp only [runInput, hd, decode_command_rejected hd, runRejected] at h
    cases h
    refine .of_no_command (hset.respond _ _) fun i ⟨c', hhead, hd'⟩ => ?_
    rw [hturns] at hhead
    cases hhead
    cases hd.symm.trans hd'
  | instr i =>
    simp only [runInput, hd] at h
    have given : GivesCommand s i := ⟨c, by rw [hturns]; rfl, hd⟩
    by_cases hstart : i = .start ∧ s.ls = .idle
    · obtain ⟨rfl, hidle⟩ := hstart
      cases (exec_start_of_idle (s := s.setTurns ts) hidle).symm.trans h
      exact .start given hidle ts rfl
    by_cases hack : i = .scanAck ∧ s.phase = .waitAck
    · obtain ⟨rfl, hphase⟩ := hack
      cases (exec_scanAck_of_waitAck (s := s.setTurns ts) hphase).symm.trans h
      exact .ack given hphase ts rfl
    rw [not_and] at hstart hack
    have only : ∀ {j}, GivesCommand s j → i = j := fun hj => (eq_of_givesCommand hturns hd hj).symm
    refine .waits ?_ (fun hj => hstart (only hj)) (fun hj hls => ?_) (fun hj => hack (only hj))
    · exact hset.trans (engineWaits_of_exec_command (isEngineStep_of_decode_command hd) hstart hack h)
    · cases only hj
      exact stopReq_of_exec_stop h hls

/-- Every step but the power-on reset is one agent's (log 11), or a line of a script. -/
theorem agentStep_of_step {s t : State} (hpower : s.turns.head? ≠ some .powerOn) (hstep : step s = .next t) :
    AgentStep s t := by
  have free (h : ∀ c ts, s.turns ≠ .host c :: ts) : ∀ i, ¬ GivesCommand s i := by
    rintro i ⟨c, hhead, -⟩
    obtain ⟨ts, hturns⟩ := List.head?_eq_some_iff.mp hhead
    exact h c ts hturns
  rcases step_cases s t hstep with ⟨ts, rfl, -, hturns⟩ | ⟨ts, hturns, -⟩ | ⟨c, ts, hturns, hcommand⟩
    | ⟨ts, hpair, hinternal, hturns, hexec⟩ | ⟨ts, tok, more, hpair, htakes, hrx, hturns, hexec⟩
    | ⟨a, ts, hturns, rfl⟩ | ⟨ts, hturns, hpoll⟩
  · exact .of_no_command (engineWaits_setTurns s ts) (free fun c ts' h => by simp [h] at hturns)
  · exact absurd (congrArg List.head? hturns) hpower
  · exact agentStep_of_command hturns hcommand
  · exact .internal (free fun c ts' h => by simp [h] at hturns) hpair hinternal ts hexec
  · exact .token (free fun c ts' h => by simp [h] at hturns) hpair htakes ts tok more hrx hexec
  · exact .of_no_command ((engineWaits_setTurns s ts).trans (engineWaits_fixAnswer _ a))
      (free fun c ts' h => by simp [h] at hturns)
  · refine .of_no_command ?_ (free fun c ts' h => by simp [h] at hturns)
    cases (exec_readStatus _).symm.trans hpoll
    split
    · exact (engineWaits_setTurns s ts).respond _ _
    · exact engineWaits_respond s _ _

/-! ### WAIT_ACK (R218) -/

/-- Settles O12: in WAIT_ACK the ENGINE waits or is acknowledged; it has no internal step and takes no token. -/
theorem waitAckIsLeftOnlyByScanAck : Obligations.WaitAckIsLeftOnlyByScanAck := by
  intro s t hls hphase hpower hstep
  cases agentStep_of_step hpower hstep with
  | waits held _ _ hack =>
    have banks := held.memoryKept.2
    rw [if_neg fun hhead => hack (givesCommand_scanAck_iff.mpr hhead) hphase]
    exact ⟨held.rx, held.wrSel, banks s.stable, banks s.wrSel, held.trace, held.phase.trans hphase, held.scanReady⟩
  | ack given _ ts ht =>
    subst ht
    have e := effect_acknowledged (s.setTurns ts)
    rw [if_pos (givesCommand_scanAck_iff.mp given)]
    exact ⟨rfl, rfl, e.memory.2 s.stable, e.memory.2 s.wrSel, ⟨_, e.trace, noRead_response _ _⟩, rfl, rfl⟩
  | start _ hidle => exact absurd (hls.symm.trans hidle) (by decide)
  | internal _ _ hinternal => rw [hphase] at hinternal; cases hinternal
  | token _ _ htakes => rw [hphase] at htakes; cases htakes

/-! ### Internal steps (R214) -/

/-- The arcs of R214: the order of an iteration, and its exits. -/
def iterationArcs : List (Phase × Phase) :=
  [(Phase.top, Phase.hunt), (.top, .stopseq), (.hunt, .hdr1), (.hdr1, .payload)
  , (.hdr1, .hunt), (.payload, .validate), (.payload, .top), (.validate, .decode), (.validate, .top)
  , (.decode, .publish), (.publish, .adjust), (.adjust, .notify), (.notify, .waitAck), (.notify, .top)
  , (.waitAck, .top)]

/-- Where the internal step of a phase goes (R134, R141, R170, R193, R215 to R217). -/
def nextPhase (s : State) : Phase :=
  match s.phase with
  | .top => if s.stopReq then .stopseq else .hunt
  | .validate => if s.frameOk then .decode else .top
  | .decode => .publish
  | .publish => .adjust
  | .adjust => .notify
  | .notify => if s.cbEn then .waitAck else .top
  | .stopseq => .idle
  | .idle | .hunt | .hdr1 | .payload | .waitAck => s.phase

theorem exec_adjust_of_not_gainInSpec {s : State} (h : ¬ gainInSpec s.params = true) :
    exec .adjust s = .refused .gainOutsideSpec := if_neg h

theorem frameOk_setTurns (s : State) (ts : List Turn) : (s.setTurns ts).frameOk = s.frameOk :=
  Bool.eq_iff_iff.mpr (((frameOk_iff _).trans Iff.rfl).trans (frameOk_iff s).symm)

theorem nextPhase_setTurns (s : State) (ts : List Turn) : nextPhase (s.setTurns ts) = nextPhase s := by
  unfold nextPhase
  rw [frameOk_setTurns]
  rfl

/-- An internal step goes where its phase says, and keeps `LS` with `PHASE` (R23). -/
theorem exec_internal_moves {s t : State} (hpair : s.ls = s.phase.lifecycle)
    (hinternal : s.phase.hasInternalStep = true) (h : exec (internalInstr s.phase) s = .next t) :
    t.phase = nextPhase s ∧ t.ls = t.phase.lifecycle := by
  cases hp : s.phase <;> rw [hp] at hpair hinternal h
  case idle | hunt | hdr1 | payload | waitAck => cases hinternal
  case top =>
    by_cases hstop : s.stopReq = true
    · cases (exec_top_of_stopReq hstop).symm.trans h
      simp [nextPhase, hp, hstop, Phase.lifecycle]
    · cases (exec_top_of_not_stopReq hstop).symm.trans h
      simp [nextPhase, hp, hstop, hpair, Phase.lifecycle]
  case validate =>
    by_cases hok : s.frameOk = true
    · cases (exec_validate_of_frameOk hok).symm.trans h
      simp [nextPhase, hp, hok, hpair, Phase.lifecycle]
    · cases (exec_validate_of_not_frameOk hok).symm.trans h
      simp [nextPhase, hp, hok, hpair, Phase.lifecycle]
  case decode =>
    cases (exec_decode s).symm.trans h
    simp [nextPhase, hp, hpair, decoded, Phase.lifecycle]
  case publish =>
    cases (exec_publish s).symm.trans h
    simp [nextPhase, hp, hpair, published, Phase.lifecycle]
  case adjust =>
    by_cases hgain : gainInSpec s.params = true
    · cases (exec_adjust_of_gainInSpec hgain).symm.trans h
      simp [nextPhase, hp, hpair, adjusted, Phase.lifecycle]
    · cases (exec_adjust_of_not_gainInSpec hgain).symm.trans h
  case notify =>
    by_cases hcb : s.cbEn = true
    · cases (exec_notify_of_cbEn hcb).symm.trans h
      simp [nextPhase, hp, hcb, hpair, notified, Phase.lifecycle]
    · cases (exec_notify_of_not_cbEn hcb).symm.trans h
      simp [nextPhase, hp, hcb, hpair, Phase.lifecycle]
  case stopseq =>
    cases (exec_stopseq s).symm.trans h
    simp [nextPhase, hp, stopped, Phase.lifecycle]

/-- An internal step moves `LS` only from TOP with a stop pending and from STOPSEQ (R213, R215, R216). -/
theorem nextPhase_lifecycle {s : State} (hinternal : s.phase.hasInternalStep = true) :
    (nextPhase s).lifecycle = s.phase.lifecycle
      ∨ (s.phase = .top ∧ s.stopReq = true ∧ nextPhase s = .stopseq)
      ∨ (s.phase = .stopseq ∧ nextPhase s = .idle) := by
  cases hp : s.phase with
  | top =>
    cases hstop : s.stopReq with
    | true => exact .inr (.inl ⟨rfl, rfl, by simp [nextPhase, hp, hstop]⟩)
    | false => exact .inl (by simp [nextPhase, hp, hstop, Phase.lifecycle])
  | stopseq => exact .inr (.inr ⟨rfl, by simp [nextPhase, hp]⟩)
  | validate | notify =>
    refine .inl ?_
    simp only [nextPhase, hp]
    split <;> rfl
  | decode | publish | adjust => exact .inl (by simp [nextPhase, hp, Phase.lifecycle])
  | idle | hunt | hdr1 | payload | waitAck => rw [hp] at hinternal; cases hinternal

theorem nextPhase_arc {s : State} (hinternal : s.phase.hasInternalStep = true) (hstopseq : s.phase ≠ .stopseq) :
    (s.phase, nextPhase s) ∈ iterationArcs := by
  cases hp : s.phase with
  | top | validate | notify =>
    simp only [nextPhase, hp]
    split <;> decide
  | decode | publish | adjust =>
    simp only [nextPhase, hp]
    decide
  | stopseq => exact absurd hp hstopseq
  | idle | hunt | hdr1 | payload | waitAck => rw [hp] at hinternal; cases hinternal

/-! ### Token steps (R111 to R116, R214) -/

/-- A token step keeps `LS`; where it moves `PHASE` it follows an arc of R214, and leaves PAYLOAD for TOP only by a
short read. -/
def TokenMoves (s : State) (tok : Token) (t : State) : Prop :=
  t.ls = s.ls ∧ (t.phase ≠ s.phase → (s.phase, t.phase) ∈ iterationArcs
    ∧ (s.phase = .payload → t.phase = .top → isByteToken tok = false))

theorem exec_payloadByte_of_not_lt {d : Byte} {s : State} (h : ¬ s.count.toNat < 1980) :
    exec (.payloadByte d) s = .fault (.noFrameByte s.count) := if_neg h

section Tokens

variable {s t : State} {tok : Token}

theorem exec_token_hunt_moves (hphase : s.phase = .hunt) (h : exec (tokenInstr .hunt tok) s = .next t) :
    TokenMoves s tok t := by
  unfold tokenInstr at h
  cases hshort : tok.getLsbD 8 <;> rw [hshort] at h
  case true =>
    cases (exec_huntShort _ s).symm.trans h
    simp [TokenMoves]
  case false =>
    by_cases h0 : tok.extractLsb' 0 8 = s.params.hdr0
    · cases (exec_huntByte_of_eq h0).symm.trans h
      simp [TokenMoves, iterationArcs, hphase]
    · cases (exec_huntByte_of_ne h0).symm.trans h
      simp [TokenMoves]

theorem exec_token_hdr1_moves (hphase : s.phase = .hdr1) (h : exec (tokenInstr .hdr1 tok) s = .next t) :
    TokenMoves s tok t := by
  unfold tokenInstr at h
  cases hshort : tok.getLsbD 8 <;> rw [hshort] at h
  case true =>
    cases (exec_hdr1Short _ s).symm.trans h
    simp [TokenMoves, iterationArcs, hphase]
  case false =>
    by_cases h1 : tok.extractLsb' 0 8 = s.params.hdr1
    · cases (exec_hdr1Byte_of_eq h1).symm.trans h
      simp [TokenMoves, iterationArcs, hphase]
    by_cases h0 : tok.extractLsb' 0 8 = s.params.hdr0
    · cases (exec_hdr1Byte_of_ne_of_eq h1 h0).symm.trans h
      simp [TokenMoves, iterationArcs, hphase]
    · cases (exec_hdr1Byte_of_ne_of_ne h1 h0).symm.trans h
      simp [TokenMoves, iterationArcs, hphase]

theorem exec_token_payload_moves (hphase : s.phase = .payload) (h : exec (tokenInstr .payload tok) s = .next t) :
    TokenMoves s tok t := by
  unfold tokenInstr at h
  cases hshort : tok.getLsbD 8 <;> rw [hshort] at h
  case true =>
    obtain ⟨t', hexec, e⟩ := exec_payloadShort (tok.extractLsb' 0 8) s
    cases hexec.symm.trans h
    have htop : t.phase = .top := congrArg Regs.phase e.regs
    refine ⟨congrArg Regs.ls e.regs, fun _ => ⟨?_, fun _ _ => by simp [isByteToken, hshort]⟩⟩
    rw [hphase, htop]
    decide
  case false =>
    by_cases hcount : s.count.toNat < 1980
    · cases (exec_payloadByte_of_lt hcount).symm.trans h
      refine ⟨State.payloadByte_ls s _, ?_⟩
      rw [State.payloadByte_phase, hphase]
      split
      · exact fun _ => ⟨by decide, nofun⟩
      · exact fun hmoved => absurd rfl hmoved
    · cases (exec_payloadByte_of_not_lt hcount).symm.trans h

theorem exec_token_moves (htakes : s.phase.takesToken = true) (h : exec (tokenInstr s.phase tok) s = .next t) :
    TokenMoves s tok t := by
  rcases (takesToken_iff s.phase).mp htakes with hphase | hphase | hphase <;> rw [hphase] at h
  · exact exec_token_hunt_moves hphase h
  · exact exec_token_hdr1_moves hphase h
  · exact exec_token_payload_moves hphase h

end Tokens

/-! ### The lifecycle transitions (R213) -/

/-- A START in IDLE runs, or stays in IDLE with its error (R210, R241). -/
theorem startSequence_ls_err (s : State) :
    (s.startSequence.ls = .idle ∧ s.startSequence.err ≠ .none)
      ∨ (s.startSequence.ls = .running ∧ s.startSequence.err = .none) := by
  rcases startSequence_ends s with ⟨-, h⟩ | ⟨-, -, h⟩ | ⟨-, -, -, h⟩ | ⟨g, h⟩ <;> rw [h]
  · exact .inl ⟨State.fatalStart_ls _ _, by simp⟩
  · exact .inl ⟨State.fatalStart_ls _ _, by simp⟩
  · exact .inl ⟨State.fatalStart_ls _ _, by simp⟩
  · exact .inr ⟨State.beginRun_ls _ g, (State.beginRun_err _ g).trans (err_afterPwmSetUp s)⟩

/-- Settles O50: only a START and an internal step can move `LS`; the others keep it, and the side clauses speak of
commands alone. -/
theorem lifecycleMovesOnlyByTheTable : Obligations.LifecycleMovesOnlyByTheTable := by
  intro s t hpair hpower hstep
  cases agentStep_of_step hpower hstep with
  | waits held hstart hstop _ =>
    exact .inl ⟨held.ls, fun hidle hhead => absurd hidle (hstart (givesCommand_start_iff.mpr hhead)),
      fun hls hhead => hstop (givesCommand_stop_iff.mpr hhead) hls⟩
  | start given hidle ts ht =>
    subst ht
    rcases startSequence_ls_err (s.setTurns ts) with ⟨hls, herr⟩ | ⟨hls, herr⟩
    · exact .inl ⟨hls.trans hidle.symm, fun _ _ => herr, fun hrunning => absurd (hidle.symm.trans hrunning) (by decide)⟩
    · exact .inr (.inl ⟨hidle, hls, herr, givesCommand_start_iff.mp given⟩)
  | ack given hphase ts ht =>
    subst ht
    rw [hphase] at hpair
    have hhead := givesCommand_scanAck_iff.mp given
    exact .inl ⟨rfl, fun hidle => absurd (hpair.symm.trans hidle) (by decide),
      fun _ hstop => absurd (hhead.symm.trans hstop) (by decide)⟩
  | internal free _ hinternal ts hexec =>
    obtain ⟨hnext, hls⟩ := exec_internal_moves (s := s.setTurns ts) hpair hinternal hexec
    rw [nextPhase_setTurns] at hnext
    rw [hnext] at hls
    rcases nextPhase_lifecycle hinternal with hkept | ⟨htop, hstop, hgo⟩ | ⟨hstopseq, hgo⟩
    · exact .inl ⟨hls.trans (hkept.trans hpair.symm), fun _ hhead => absurd (givesCommand_start_iff.mpr hhead) (free _),
        fun _ hhead => absurd (givesCommand_stop_iff.mpr hhead) (free _)⟩
    · rw [htop] at hpair
      rw [hgo] at hls
      exact .inr (.inr (.inl ⟨hpair, hls, htop, hstop⟩))
    · rw [hstopseq] at hpair
      rw [hgo] at hls
      exact .inr (.inr (.inr ⟨hpair, hls, hstopseq⟩))
  | token free _ htakes ts tok more _ hexec =>
    obtain ⟨hls, -⟩ := exec_token_moves (s := (s.setTurns ts).setRx more) htakes hexec
    exact .inl ⟨hls, fun _ hhead => absurd (givesCommand_start_iff.mpr hhead) (free _),
      fun _ hhead => absurd (givesCommand_stop_iff.mpr hhead) (free _)⟩

/-! ### The order of an iteration (R214) -/

/-- Settles O51: an internal step goes to `nextPhase`, whose tests are the ones the exits name; a token step moves
along its own arcs. -/
theorem phaseMovesInTheOrder : Obligations.PhaseMovesInTheOrder := by
  intro s t hls hpower hstep hmoved
  cases agentStep_of_step hpower hstep with
  | waits held => exact absurd held.phase hmoved
  | start _ hidle => exact absurd (hls.symm.trans hidle) (by decide)
  | ack _ hphase ts ht =>
    have htop : t.phase = .top := by rw [ht]; rfl
    simp [hphase, htop]
  | internal _ hpair hinternal ts hexec =>
    have hstopseq : s.phase ≠ .stopseq := fun h => by rw [h, hls] at hpair; cases hpair
    obtain ⟨hnext, -⟩ := exec_internal_moves (s := s.setTurns ts) hpair hinternal hexec
    rw [nextPhase_setTurns] at hnext
    rw [hnext]
    refine ⟨nextPhase_arc hinternal hstopseq, fun h => ?_, fun h => ?_, fun h => ?_, fun h => ?_⟩
    · simp [nextPhase, h]
    · rw [h] at hinternal; cases hinternal
    · simp [nextPhase, h]
    · simp [nextPhase, h]
  | token _ _ htakes ts tok more hrx hexec =>
    obtain ⟨-, hmoves⟩ := exec_token_moves (s := (s.setTurns ts).setRx more) htakes hexec
    obtain ⟨harc, hshort⟩ := hmoves hmoved
    refine ⟨harc, fun h => ?_, fun hpayload htop => ⟨tok, more, hrx, hshort hpayload htop⟩, fun h => ?_, fun h => ?_⟩
    all_goals
      rw [h] at htakes
      cases htakes

end Sys2Proof.Proofs

/-! START, whatever the answers (R210, R211). Up to its end the start sequence has only made calls, so one of two things
is left to say: which state is fatal and with what code, or which legal range the run begins with. -/

namespace Sys2Proof.Proofs

open Sys2Proof.Machine

/-- `u` is reached from `s` inside a START: calls have been made, and of the block only `LS` and `ERR` are written. -/
structure InStart (s u : State) : Prop where
  regs : u.regs = { s.regs with ls := .starting, err := .none }
  frame : u.frame = s.frame
  bank0 : u.bank0 = s.bank0
  bank1 : u.bank1 = s.bank1
  boots : u.boots = s.boots

theorem inStart_afterOpen (s : State) : InStart s (afterOpen s) := by
  constructor <;> simp [State.regs, afterOpen]

theorem inStart_afterGpioInit (s : State) : InStart s ((afterGpioInit s).call .transportClose) := by
  constructor <;> simp [State.regs, afterGpioInit, afterOpen]

theorem inStart_afterPwmSetUp (s : State) : InStart s (afterPwmSetUp s) :=
  ⟨regs_afterPwmSetUp s, by simp, by simp, by simp, by simp⟩

theorem InStart.releaseAll {s u : State} (h : InStart s u) : InStart s u.releaseAll :=
  ⟨by rw [← h.regs]; simp [State.regs], by simp [h.frame], by simp [h.bank0], by simp [h.bank1], by simp [h.boots]⟩

theorem InStart.memoryKept {s u : State} (h : InStart s u) : memoryKept s u :=
  ⟨State.frameByte_congr s u h.frame h.boots, State.scanEntry_congr s u h.bank0 h.bank1 h.boots⟩

/-- A START in IDLE ends fatally with a code, or runs with a legal range. -/
theorem startSequence_fatal_or_runs (s : State) :
    (∃ u e, InStart s u ∧ e ≠ .none ∧ s.startSequence = u.fatalStart e)
      ∨ ∃ n : Nat, s.params.rangeMin ≤ n ∧ n ≤ 65535 ∧ s.startSequence = (afterPwmSetUp s).beginRun n := by
  rcases s.startSequence_cases with ⟨-, h⟩ | ⟨-, -, h⟩ | ⟨-, -, -, h⟩ | ⟨-, -, hgood, h⟩
  · exact .inl ⟨_, .transportOpen, inStart_afterOpen s, nofun, h⟩
  · exact .inl ⟨_, .gpioInit, inStart_afterGpioInit s, nofun, h⟩
  · exact .inl ⟨_, .pwmRange, (inStart_afterPwmSetUp s).releaseAll, nofun, h⟩
  · obtain ⟨n, -, hmin, hmax, hn⟩ := badRange_false _ _ hgood
    exact .inr ⟨n, hmin, hmax, hn ▸ h⟩

theorem lastResponse_fatalStart (s : State) (e : ErrCode) :
    lastResponse (s.fatalStart e).trace = some (2#32, [zext32 e.code]) := by simp [lastResponse]

theorem lastResponse_beginRun (s : State) (g : Nat) : lastResponse (s.beginRun g).trace = some (0#32, [0#32]) := by
  simp [lastResponse]

theorem regs_fatalStart (s : State) (e : ErrCode) : (s.fatalStart e).regs = { s.regs with ls := .idle, err := e } := by
  simp [State.regs]

/-- A fatal START leaves no trace in the registers but its code (R211). -/
theorem InStart.regs_fatalStart {s u : State} (h : InStart s u) (hidle : s.ls = .idle) (e : ErrCode) :
    (u.fatalStart e).regs = { s.regs with err := e } := by
  rw [Proofs.regs_fatalStart, h.regs, ← hidle]
  rfl

/-- Half of half of a 16-bit range fits `DRIVE` (R199). -/
theorem toNat_presetDrive {n : Nat} (h : n ≤ 65535) : (BitVec.ofNat 16 (presetDrive n)).toNat = n / 2 / 2 := by
  rw [BitVec.toNat_ofNat, presetDrive, maxPwm]
  omega

theorem toNat_range {n : Nat} (h : n ≤ 65535) : (BitVec.ofNat 16 n).toNat = n := by
  rw [BitVec.toNat_ofNat]
  omega

/-- Settles O44: the two ends of the start sequence. -/
theorem startInIdleRunsOrIsFatal : Obligations.StartInIdleRunsOrIsFatal := by
  intro s hidle
  refine ⟨_, exec_start_of_idle hidle, ?_⟩
  rcases startSequence_fatal_or_runs s with ⟨u, e, hu, he, h⟩ | ⟨n, hmin, hmax, h⟩ <;> rw [h]
  · refine .inr ⟨he, hu.regs_fatalStart hidle e, hu.memoryKept, lastResponse_fatalStart u e⟩
  · refine .inl ⟨State.beginRun_ls _ n, State.beginRun_phase _ n, (State.beginRun_err _ n).trans (err_afterPwmSetUp s),
      ?_, ?_, ?_, ?_, lastResponse_beginRun _ n⟩
    · rwa [State.beginRun_pwmRange, toNat_range hmax]
    · rw [State.beginRun_pwmRange, State.beginRun_drive, toNat_range hmax, toNat_presetDrive hmax]
    · rw [← h, State.startSequence_target]
    · rw [← h, State.startSequence_cbEn]

/-- Settles O42: the no-op is the response `D0 = 1` alone. -/
theorem startWhileNotIdleIsANoOp : Obligations.StartWhileNotIdleIsANoOp := fun s h =>
  ⟨_, exec_start_of_not_idle h, effect_respond s .ok [1#32]⟩

end Sys2Proof.Proofs

/-! The encodings (R91 to R95, R103). A field of a concatenation gives its part back, so decoding undoes encoding; the
fields of a word put it together again, so encoding undoes decoding. -/

namespace Sys2Proof.Proofs

open Sys2Proof.Machine

/-! ### Decoding what the encoder writes -/

theorem opcodeOf_cat (o : BitVec 4) (x : BitVec 28) : opcodeOf (cat 32 o x) = o := extractLsb'_cat_high _ _ rfl

/-- The field a zero-extended value came from. -/
theorem extractLsb'_setWidth_low {n w : Nat} (v : BitVec n) (h : n ≤ w) : (v.setWidth w).extractLsb' 0 n = v := by
  ext i hi
  simp [hi, show i < w by omega]

/-- The zeros above it. -/
theorem extractLsb'_setWidth_high {n w len : Nat} (v : BitVec n) : (v.setWidth w).extractLsb' n len = 0#len := by
  ext i hi
  simp

theorem decodeCommand_of_ge {c : Word} (h : 12 ≤ (opcodeOf c).toNat) :
    decodeCommand c = .instr (.reservedCF (c.extractLsb' 0 30)) := by
  unfold decodeCommand
  split
  case h_13 => rfl
  all_goals omega

/-- Two high bits of 1 make an opcode of 0xC to 0xF. -/
theorem le_opcodeOf_reservedCF (x : BitVec 30) : 12 ≤ (opcodeOf (cat 32 0x3#2 x)).toNat := by
  simp only [opcodeOf, BitVec.extractLsb'_toNat, toNat_cat _ _ (show 2 + 30 = 32 from rfl), BitVec.toNat_ofNat]
  omega

theorem decode_encode_command {i : Instr} (hi : i.isEngineStep = false) : decode (encode i) = .instr i := by
  cases i with
  | start | stop | snapshot | readRpm | readDrive | readStatus | readTarget | scanAck => rfl
  | reserved0 c => simp [encode, commandWord, decode, decodeCommand, opcodeOf_cat]
  | reservedCF c => simp [encode, decode, decodeCommand_of_ge (le_opcodeOf_reservedCF c)]
  | readPoint k j => simp [encode, commandWord, decode, decodeCommand, opcodeOf_cat, ifReservedZero]
  | setTarget v =>
    have hv : (v.setWidth 28).extractLsb' 0 16 = v := extractLsb'_setWidth_low v (by decide)
    have hzero : (v.setWidth 28).extractLsb' 16 12 = 0#12 := extractLsb'_setWidth_high v
    simp [encode, commandWord, decode, decodeCommand, opcodeOf_cat, ifReservedZero, hv, hzero]
  | setCb e =>
    have he : (e.setWidth 28).extractLsb' 0 1 = e := extractLsb'_setWidth_low e (by decide)
    have hzero : (e.setWidth 28).extractLsb' 1 27 = 0#27 := extractLsb'_setWidth_high e
    simp [encode, commandWord, decode, decodeCommand, opcodeOf_cat, ifReservedZero, he, hzero]
  | huntByte | huntShort | hdr1Byte | hdr1Short | payloadByte | payloadShort
  | top | validate | decode | publish | adjust | notify | stopseq => cases hi

theorem decode_encode_token {i : Instr} (hi : i.isSyncStep = true) : decode (encode i) = .instr i := by
  cases i with
  | huntByte | huntShort => exact (decode_token .hunt _ rfl).trans (by simp [tokenInstr])
  | hdr1Byte | hdr1Short => exact (decode_token .hdr1 _ rfl).trans (by simp [tokenInstr])
  | payloadByte | payloadShort => exact (decode_token .payload _ rfl).trans (by simp [tokenInstr])
  | _ => cases hi

/-- Settles O1: a command, a token step, or an internal step, whose code is fixed. -/
theorem decodeOfEncodeIsIdentity : Obligations.DecodeOfEncodeIsIdentity := by
  intro i
  cases i with
  | top | validate | decode | publish | adjust | notify | stopseq => rfl
  | huntByte | huntShort | hdr1Byte | hdr1Short | payloadByte | payloadShort => exact decode_encode_token rfl
  | _ => exact decode_encode_command rfl

/-! ### Encoding what was decoded -/

theorem phaseTokenWord_eq {p : BitVec 13} {phase : BitVec 4} {b : BitVec 1}
    (hphase : (p.extractLsb' 9 4).toNat = phase.toNat) (hb : BitVec.ofBool (p.getLsbD 8) = b) :
    phaseTokenWord phase b (p.extractLsb' 0 8) = .phaseToken p := by
  have htoken : cat 9 b (p.extractLsb' 0 8) = p.extractLsb' 0 9 := by
    ext i hi
    subst hb
    by_cases hlow : i < 8
    · simp [hlow]
    · simp [show i = 8 by omega]
  rw [phaseTokenWord, htoken, ← BitVec.eq_of_toNat_eq hphase, cat_extractLsb' p rfl]

theorem encode_of_decode_phaseToken {p : BitVec 13} {i : Instr} (h : decode (.phaseToken p) = .instr i) :
    encode i = .phaseToken p := by
  simp only [decode, decodePhaseToken] at h
  split at h
  case h_7 => cases h
  all_goals
    rename_i hphase hshort
    cases h
    exact phaseTokenWord_eq hphase (by rw [hshort]; rfl)

theorem encode_of_decode_phaseOnly {p : BitVec 4} {i : Instr} (h : decode (.phaseOnly p) = .instr i) :
    encode i = .phaseOnly p := by
  simp only [decode, decodePhaseOnly] at h
  split at h
  case h_8 => cases h
  all_goals
    rename_i hphase
    cases h
    exact congrArg Wire.phaseOnly (BitVec.eq_of_toNat_eq hphase.symm)

/-- Settles O2: no format's decoder drops a bit. -/
theorem encodeOfDecodeIsIdentity : Obligations.EncodeOfDecodeIsIdentity := by
  intro w i h
  cases w with
  | command c => exact encode_of_decode_command h
  | phaseToken p => exact encode_of_decode_phaseToken h
  | phaseOnly p => exact encode_of_decode_phaseOnly h

/-- Settles O3: closed words, decoded. -/
theorem specWordsDecode : Obligations.SpecWordsDecode := by
  unfold Obligations.SpecWordsDecode
  decide

/-! ### The rows of R93 select apart -/

/-- Where two rows fix the same bits, they ask for different values there. -/
theorem eq_of_rows_agree : ∀ r ∈ commandRows, ∀ r' ∈ commandRows,
    r.matchBits &&& r'.mask = r'.matchBits &&& r.mask → r' = r := by decide

theorem row_unique {c : Word} {r r' : CommandRow} (hr : r ∈ commandRows) (hr' : r' ∈ commandRows)
    (hsel : c &&& r.mask = r.matchBits) (hsel' : c &&& r'.mask = r'.matchBits) : r' = r := by
  refine eq_of_rows_agree r hr r' hr' ?_
  rw [← hsel, ← hsel', BitVec.and_assoc, BitVec.and_assoc, BitVec.and_comm r.mask]

/-- A field the mask keeps has the value the row asks for. -/
theorem extractLsb'_of_masked {c mask m : Word} {start len : Nat} (h : c &&& mask = m)
    (hkeeps : mask.extractLsb' start len = BitVec.allOnes len) : c.extractLsb' start len = m.extractLsb' start len := by
  rw [← h, BitVec.extractLsb'_and, hkeeps, BitVec.and_allOnes]

theorem eq_of_masked_all {c m : Word} (h : c &&& 0xFFFFFFFF#32 = m) : c = m := BitVec.and_allOnes.symm.trans h

/-! The rows with operands, each with the instruction of a word it selects. -/

theorem decode_of_reserved0Row {c : Word} (h : c &&& 0xF0000000#32 = 0x00000000#32) :
    decode (.command c) = .instr (.reserved0 (c.extractLsb' 0 28)) := by
  have hop : opcodeOf c = 0x0#4 := extractLsb'_of_masked h rfl
  simp [decode, decodeCommand, hop]

theorem decode_of_readPointRow {c : Word} (h : c &&& 0xFFFFEE00#32 = 0x40000000#32) :
    decode (.command c) = .instr (.readPoint (c.extractLsb' 12 1) (c.extractLsb' 0 9)) := by
  have hhigh : c.extractLsb' 13 15 = 0#15 := extractLsb'_of_masked h rfl
  have hlow : c.extractLsb' 9 3 = 0#3 := extractLsb'_of_masked h rfl
  simp [decode, decodeCommand, opcodeOf_readPointRow h, ifReservedZero, hhigh, hlow]

theorem decode_of_setTargetRow {c : Word} (h : c &&& 0xFFFF0000#32 = 0x80000000#32) :
    decode (.command c) = .instr (.setTarget (c.extractLsb' 0 16)) := by
  have hop : opcodeOf c = 0x8#4 := extractLsb'_of_masked h rfl
  have hzero : c.extractLsb' 16 12 = 0#12 := extractLsb'_of_masked h rfl
  simp [decode, decodeCommand, hop, ifReservedZero, hzero]

theorem decode_of_setCbRow {c : Word} (h : c &&& 0xFFFFFFFE#32 = 0xA0000000#32) :
    decode (.command c) = .instr (.setCb (c.extractLsb' 0 1)) := by
  have hop : opcodeOf c = 0xA#4 := extractLsb'_of_masked h rfl
  have hzero : c.extractLsb' 1 27 = 0#27 := extractLsb'_of_masked h rfl
  simp [decode, decodeCommand, hop, ifReservedZero, hzero]

theorem decode_of_reservedCFRow {c : Word} (h : c &&& 0xC0000000#32 = 0xC0000000#32) :
    decode (.command c) = .instr (.reservedCF (c.extractLsb' 0 30)) := by
  have hhigh : c.extractLsb' 30 2 = 0x3#2 := extractLsb'_of_masked h rfl
  have hword : cat 32 0x3#2 (c.extractLsb' 0 30) = c := hhigh ▸ cat_extractLsb' c rfl
  exact decodeCommand_of_ge (hword ▸ le_opcodeOf_reservedCF _)

/-- A row without operands selects one word. -/
theorem decode_of_fixedRow {c m : Word} {i : Instr} (h : c &&& 0xFFFFFFFF#32 = m)
    (hm : decode (.command m) = .instr i) : decode (.command c) = .instr i := by
  rwa [show c = m from BitVec.and_allOnes.symm.trans h]

/-- A word that a row selects decodes to an instruction. -/
theorem decode_of_row {c : Word} {r : CommandRow} (hr : r ∈ commandRows) (hsel : c &&& r.mask = r.matchBits) :
    ∃ i, decode (.command c) = .instr i := by
  simp only [commandRows, List.mem_cons, List.not_mem_nil, or_false] at hr
  rcases hr with rfl | rfl | rfl | rfl | rfl | rfl | rfl | rfl | rfl | rfl | rfl | rfl | rfl
  exacts [⟨_, decode_of_reserved0Row hsel⟩, ⟨_, decode_of_fixedRow hsel rfl⟩, ⟨_, decode_of_fixedRow hsel rfl⟩,
    ⟨_, decode_of_fixedRow hsel rfl⟩, ⟨_, decode_of_readPointRow hsel⟩, ⟨_, decode_of_fixedRow hsel rfl⟩,
    ⟨_, decode_of_fixedRow hsel rfl⟩, ⟨_, decode_of_fixedRow hsel rfl⟩, ⟨_, decode_of_setTargetRow hsel⟩,
    ⟨_, decode_of_fixedRow hsel rfl⟩, ⟨_, decode_of_setCbRow hsel⟩, ⟨_, decode_of_fixedRow hsel rfl⟩,
    ⟨_, decode_of_reservedCFRow hsel⟩]

/-- The row of a decoded word. -/
theorem row_of_decode {c : Word} {i : Instr} (h : decode (.command c) = .instr i) :
    ∃ r ∈ commandRows, r.mnemonic = i.mnemonic ∧ c &&& r.mask = r.matchBits := by
  have hrow := selectsOwnRow i
  rw [Laws.SelectsOwnRow.Statement, encode_of_decode_command h] at hrow
  obtain ⟨r, hr, hmnemonic, hsel⟩ := hrow
  exact ⟨r, hr, hmnemonic, of_decide_eq_true hsel⟩

/-! The operands of a decoded word: it is the instruction's encoding, whose fields they are. -/

theorem operands_of_readPoint {c : Word} {k : BankNo} {j : BitVec 9}
    (h : decode (.command c) = .instr (.readPoint k j)) : k = c.extractLsb' 12 1 ∧ j = c.extractLsb' 0 9 := by
  cases encode_of_decode_command h
  simp

theorem operand_of_setTarget {c : Word} {v : Half} (h : decode (.command c) = .instr (.setTarget v)) :
    v = c.extractLsb' 0 16 := by
  cases encode_of_decode_command h
  simp [extractLsb'_setWidth_low]

theorem operand_of_setCb {c : Word} {e : BitVec 1} (h : decode (.command c) = .instr (.setCb e)) :
    e = c.extractLsb' 0 1 := by
  cases encode_of_decode_command h
  simp [extractLsb'_setWidth_low]

/-- Settles O4: the decoded word's own row selects it and rows select apart; a word with a row decodes. -/
theorem commandRowsSelectTheDecodedWord : Obligations.CommandRowsSelectTheDecodedWord := by
  intro c
  refine ⟨fun i hd => ?row, fun e hd r hr hsel => ?rejected, fun _ _ => operands_of_readPoint,
    fun _ => operand_of_setTarget, fun _ => operand_of_setCb⟩
  case row =>
    obtain ⟨r, hr, hmnemonic, hsel⟩ := row_of_decode hd
    exact ⟨r, hr, hmnemonic, hsel, fun r' hr' hsel' => row_unique hr hr' hsel hsel'⟩
  case rejected =>
    obtain ⟨i, hi⟩ := decode_of_row hr hsel
    cases hd.symm.trans hi

/-! ### Legal words -/

/-- The rows of the reserved opcodes are not among those that name a command. -/
theorem mnemonic_of_namedRow : ∀ r ∈ namedRows,
    r ∈ commandRows ∧ r.mnemonic ≠ "RESERVED_0" ∧ r.mnemonic ≠ "RESERVED_C_F" := by decide

theorem row_of_readPoint : ∀ r ∈ commandRows, r.mnemonic = "READ_POINT" →
    r = ⟨"READ_POINT", 0x40000000#32, 0xFFFFEE00#32⟩ := by decide

/-- A word that is not illegal is the word of an instruction an assembler may write (R95, R102). -/
theorem decode_of_not_illegal {c : Word} (h : illegalCommand c = false) :
    ∃ i, decode (.command c) = .instr i ∧ i.wf = true := by
  have hlegal := mt (illegalCommand_iff c).mpr (Bool.eq_false_iff.mp h)
  push Not at hlegal
  obtain ⟨⟨r, hr, hsel⟩, hindex⟩ := hlegal
  obtain ⟨hr, hnot0, hnotCF⟩ := mnemonic_of_namedRow r hr
  have hsel : c &&& r.mask = r.matchBits := of_decide_eq_true (by simpa [CommandRow.selects] using hsel)
  obtain ⟨i, hd⟩ := decode_of_row hr hsel
  obtain ⟨r', hr', hmnemonic, hsel'⟩ := row_of_decode hd
  cases row_unique hr hr' hsel hsel'
  refine ⟨i, hd, ?_⟩
  cases i with
  | reserved0 => exact absurd hmnemonic hnot0
  | reservedCF => exact absurd hmnemonic hnotCF
  | readPoint k j =>
    cases row_of_readPoint r hr hmnemonic
    obtain ⟨-, rfl⟩ := operands_of_readPoint hd
    exact decide_eq_true (hindex hsel)
  | _ => rfl

/-- From `s` the instruction `i` is answered with OK or FATAL. -/
def AnswersOkOrFatal (i : Instr) (s : State) : Prop :=
  ∃ t st d, exec i s = .next t ∧ lastResponse t.trace = some (st, d) ∧ (st = 0#32 ∨ st = 2#32)

theorem answersOkOrFatal_of_respond {i : Instr} {s u : State} {data : List Word}
    (h : exec i s = .next (u.respond .ok data)) : AnswersOkOrFatal i s :=
  ⟨_, _, _, h, lastResponse_respond u .ok data, .inl rfl⟩

theorem answersOkOrFatal_start (s : State) : AnswersOkOrFatal .start s := by
  by_cases hidle : s.ls = .idle
  · rcases startSequence_fatal_or_runs s with ⟨u, e, -, -, h⟩ | ⟨n, -, -, h⟩
    · exact ⟨_, _, _, exec_start_of_idle hidle, h ▸ lastResponse_fatalStart u e, .inr rfl⟩
    · exact ⟨_, _, _, exec_start_of_idle hidle, h ▸ lastResponse_beginRun _ n, .inl rfl⟩
  · exact answersOkOrFatal_of_respond (exec_start_of_not_idle hidle)

theorem answersOkOrFatal_of_wf {i : Instr} (hcommand : i.isEngineStep = false) (hwf : i.wf = true) (s : State) :
    AnswersOkOrFatal i s := by
  cases i with
  | start => exact answersOkOrFatal_start s
  | stop => exact answersOkOrFatal_of_respond (exec_stop s)
  | scanAck => exact answersOkOrFatal_of_respond rfl
  | readPoint k j =>
    have hj : j.toNat < 360 := of_decide_eq_true hwf
    by_cases hrace : s.ls ≠ .idle ∧ k = s.wrSel
    · exact answersOkOrFatal_of_respond (exec_readPoint_race hj hrace.1 hrace.2)
    · exact answersOkOrFatal_of_respond (exec_readPoint_stored hj (by tauto))
  | snapshot | readRpm | readDrive | readStatus | setTarget | readTarget | setCb =>
    exact answersOkOrFatal_of_respond rfl
  | reserved0 | reservedCF => cases hwf
  | huntByte | huntShort | hdr1Byte | hdr1Short | payloadByte | payloadShort
  | top | validate | decode | publish | adjust | notify | stopseq => cases hcommand

/-- Settles O6: a legal word is a well-formed command, and each of those answers OK or FATAL. -/
theorem legalWordsAreNeverRefused : Obligations.LegalWordsAreNeverRefused := by
  intro s c rest hturns hlegal
  obtain ⟨i, hd, hwf⟩ := decode_of_not_illegal hlegal
  have hstep : step s = exec i (s.setTurns rest) := by rw [step_host hturns, runInput, hd]
  rw [hstep]
  exact answersOkOrFatal_of_wf (isEngineStep_of_decode_command hd) hwf _

/-- Settles O7: a reserved opcode is a response and nothing else. -/
theorem reservedOpcodesAnswerBadCmd : Obligations.ReservedOpcodesAnswerBadCmd := fun s _ _ =>
  ⟨⟨_, rfl, effect_respond s .badCmd []⟩, _, rfl, effect_respond s .badCmd []⟩

end Sys2Proof.Proofs

/-! What an instruction can do (R251). Each outcome of each rule is one case of `Result`; what may be written, and what
stops, is read off these cases. -/

namespace Sys2Proof.Proofs

open Sys2Proof.Machine

/-- The states the instruction `i` can lead to from `s`, one case per outcome of its rule. -/
inductive Result (s : State) : Instr → State → Prop
  | answers {i : Instr} (hi : i.isEngineStep = false) (status : RespStatus) (data : List Word) :
      Result s i (s.respond status data)
  | race (k : BankNo) (j : BitVec 9) (data : List Word) : Result s (.readPoint k j) (s.drew.respond .ok data)
  | start (hidle : s.ls = .idle) : Result s .start s.startSequence
  | stop : Result s .stop ((stopRequested s).respond .ok [])
  | setTarget (v : Half) : Result s (.setTarget v) ((s.setTarget v).respond .ok [])
  | setCb (e : BitVec 1) : Result s (.setCb e) ((s.setCbEn (decide (e = 1#1))).respond .ok [])
  | ack (hphase : s.phase = .waitAck) : Result s .scanAck (acknowledged s)
  | huntCandidate {d : Byte} (h0 : d = s.params.hdr0) : Result s (.huntByte d) (s.candidate d)
  | huntOther (d : Byte) : Result s (.huntByte d) (s.requestRead 1)
  | huntShort (x : Byte) : Result s (.huntShort x) (s.requestRead 1)
  | hdr1Match {d : Byte} (h1 : d = s.params.hdr1) : Result s (.hdr1Byte d) (s.headerMatched d)
  | hdr1Candidate {d : Byte} (h0 : d = s.params.hdr0) : Result s (.hdr1Byte d) (s.candidate d)
  | hdr1Other (d : Byte) : Result s (.hdr1Byte d) s.rehunt
  | hdr1Short (x : Byte) : Result s (.hdr1Short x) s.rehunt
  | payloadByte (d : Byte) (hcount : s.count.toNat < 1980) : Result s (.payloadByte d) (s.payloadByte d)
  | payloadShort (x : Byte) :
      Result s (.payloadShort x) (s |>.log (.drop .shortRead) |>.setCount 0#11 |>.setPhase .top)
  | topStops (hstop : s.stopReq = true) : Result s .top (s |>.setLs .stopping |>.setPhase .stopseq)
  | topHunts : Result s .top s.rehunt
  | accepts (hok : s.frameOk = true) : Result s .validate (s |>.setCount 0#11 |>.setPhase .decode)
  | drops : Result s .validate (s |>.setCount 0#11 |>.log (.drop .checksum) |>.setPhase .top)
  | decode : Result s .decode (decoded s)
  | publish : Result s .publish (published s)
  | adjust : Result s .adjust (adjusted s)
  | notifies : Result s .notify (notified s)
  | iterates : Result s .notify (s.setPhase .top)
  | stopseq : Result s .stopseq (stopped s)

theorem result_of_exec {i : Instr} {s t : State} (h : exec i s = .next t) : Result s i t := by
  cases i with
  | start =>
    by_cases hidle : s.ls = .idle
    · cases (exec_start_of_idle hidle).symm.trans h; exact .start hidle
    · cases (exec_start_of_not_idle hidle).symm.trans h; exact .answers rfl _ _
  | stop => cases (exec_stop s).symm.trans h; exact .stop
  | setTarget v => cases (exec_setTarget v s).symm.trans h; exact .setTarget v
  | setCb e => cases (exec_setCb e s).symm.trans h; exact .setCb e
  | scanAck =>
    by_cases hphase : s.phase = .waitAck
    · cases (exec_scanAck_of_waitAck hphase).symm.trans h; exact .ack hphase
    · cases (exec_scanAck_of_not_waitAck hphase).symm.trans h; exact .answers rfl _ _
  | readPoint k j =>
    simp only [exec, execReadPoint, Host.Outcome.next.injEq] at h
    split_ifs at h <;> subst h
    · exact .answers rfl _ _
    · exact .race k j _
    · exact .answers rfl _ _
  | snapshot | readRpm | readDrive | readStatus | readTarget | reserved0 | reservedCF =>
    cases h; exact .answers rfl _ _
  | huntByte d =>
    by_cases h0 : d = s.params.hdr0
    · cases (exec_huntByte_of_eq h0).symm.trans h; exact .huntCandidate h0
    · cases (exec_huntByte_of_ne h0).symm.trans h; exact .huntOther d
  | huntShort x => cases (exec_huntShort x s).symm.trans h; exact .huntShort x
  | hdr1Byte d =>
    by_cases h1 : d = s.params.hdr1
    · cases (exec_hdr1Byte_of_eq h1).symm.trans h; exact .hdr1Match h1
    by_cases h0 : d = s.params.hdr0
    · cases (exec_hdr1Byte_of_ne_of_eq h1 h0).symm.trans h; exact .hdr1Candidate h0
    · cases (exec_hdr1Byte_of_ne_of_ne h1 h0).symm.trans h; exact .hdr1Other d
  | hdr1Short x => cases (exec_hdr1Short x s).symm.trans h; exact .hdr1Short x
  | payloadByte d =>
    by_cases hcount : s.count.toNat < 1980
    · cases (exec_payloadByte_of_lt hcount).symm.trans h; exact .payloadByte d hcount
    · cases (exec_payloadByte_of_not_lt hcount).symm.trans h
  | payloadShort x => cases h; exact .payloadShort x
  | top =>
    by_cases hstop : s.stopReq = true
    · cases (exec_top_of_stopReq hstop).symm.trans h; exact .topStops hstop
    · cases (exec_top_of_not_stopReq hstop).symm.trans h; exact .topHunts
  | validate =>
    by_cases hok : s.frameOk = true
    · cases (exec_validate_of_frameOk hok).symm.trans h; exact .accepts hok
    · cases (exec_validate_of_not_frameOk hok).symm.trans h; exact .drops
  | decode => cases (exec_decode s).symm.trans h; exact .decode
  | publish => cases (exec_publish s).symm.trans h; exact .publish
  | adjust =>
    by_cases hgain : gainInSpec s.params = true
    · cases (exec_adjust_of_gainInSpec hgain).symm.trans h; exact .adjust
    · cases (exec_adjust_of_not_gainInSpec hgain).symm.trans h
  | notify =>
    by_cases hcb : s.cbEn = true
    · cases (exec_notify_of_cbEn hcb).symm.trans h; exact .notifies
    · cases (exec_notify_of_not_cbEn hcb).symm.trans h; exact .iterates
  | stopseq => cases (exec_stopseq s).symm.trans h; exact .stopseq

/-! ### Who writes what -/

/-- From `s` to `t` only what the instruction `i` may write has been written (R251). -/
structure WrittenBy (i : Instr) (s t : State) : Prop where
  params : t.params = s.params
  phase : i.isEngineStep = false → i ≠ .start → i ≠ .scanAck → t.phase = s.phase
  count : i.isSyncStep = false → i ≠ .validate → i ≠ .top → i ≠ .start → t.count = s.count
  ls : i ≠ .top → i ≠ .stopseq → i ≠ .start → t.ls = s.ls
  stopReq : i ≠ .stopseq → i ≠ .start → i ≠ .stop → t.stopReq = s.stopReq
  wrSel : i ≠ .publish → i ≠ .start → t.wrSel = s.wrSel
  speedSum : i ≠ .decode → i ≠ .start → t.speedSum = s.speedSum
  drive : i ≠ .adjust → i ≠ .stopseq → i ≠ .start → t.drive = s.drive
  pwmRange : i ≠ .start → t.pwmRange = s.pwmRange
  err : i ≠ .start → t.err = s.err
  target : (∀ v, i ≠ .setTarget v) → t.target = s.target
  cbEn : (∀ e, i ≠ .setCb e) → t.cbEn = s.cbEn
  scanReady : i ≠ .notify → i ≠ .start → i ≠ .scanAck → t.scanReady = s.scanReady
  frame : i.isSyncStep = false → t.frame = s.frame
  bank0 : i ≠ .decode → i ≠ .start → t.bank0 = s.bank0
  bank1 : i ≠ .decode → i ≠ .start → t.bank1 = s.bank1
  boots : t.boots = s.boots
  turns : t.turns = s.turns
  rx : t.rx = s.rx

theorem writtenBy_of_exec {i : Instr} {s t : State} (h : exec i s = .next t) : WrittenBy i s t := by
  cases result_of_exec h with
  | stop | ack | decode | publish | adjust | notifies | stopseq =>
    constructor <;>
      simp [Instr.isEngineStep, stopRequested, acknowledged, decoded, published, adjusted, notified, stopped]
  | _ => constructor <;> simp [Instr.isEngineStep, Instr.isSyncStep]

/-- Settles O52: its clauses are those of `WrittenBy`; what reads a RAM depends on the RAM and the reset count. -/
theorem eachRegisterHasItsWriters : Obligations.EachRegisterHasItsWriters := by
  intro i s t h
  have w := writtenBy_of_exec h
  exact ⟨w.params, w.phase, w.count, w.ls, w.stopReq, w.wrSel,
    fun hd hs => ⟨w.speedSum hd hs, State.scanEntry_congr s t (w.bank0 hd hs) (w.bank1 hd hs) w.boots⟩,
    fun hi => State.frameByte_congr s t (w.frame hi) w.boots, w.drive, fun hs => ⟨w.pwmRange hs, w.err hs⟩, w.target,
    w.cbEn, w.scanReady⟩

/-! ### The stops (U8, U17) -/

theorem not_gainInSpec_iff (p : Config.Params) :
    ¬ gainInSpec p = true ↔ p.gainNum = 0 ∨ 65536 ≤ p.gainNum ∨ p.gainDen = 0 := by
  rw [gainInSpec, Bool.and_eq_true, Bool.and_eq_true, decide_eq_true_iff, decide_eq_true_iff, decide_eq_true_iff,
    not_and_or, not_and_or, not_lt, not_lt, not_lt, Nat.le_zero, Nat.le_zero, or_assoc]
  rfl

/-- An instruction gives a next state, or is one of the two that stop. -/
theorem exec_next_or_stops (i : Instr) (s : State) :
    (∃ t, exec i s = .next t)
      ∨ ((∃ d, i = .payloadByte d) ∧ 1980 ≤ s.count.toNat ∧ exec i s = .fault (.noFrameByte s.count))
      ∨ (i = .adjust ∧ ¬ gainInSpec s.params = true ∧ exec i s = .refused .gainOutsideSpec) := by
  cases i with
  | payloadByte d =>
    by_cases hcount : s.count.toNat < 1980
    · exact .inl ⟨_, exec_payloadByte_of_lt hcount⟩
    · exact .inr (.inl ⟨⟨d, rfl⟩, by omega, exec_payloadByte_of_not_lt hcount⟩)
  | adjust =>
    by_cases hgain : gainInSpec s.params = true
    · exact .inl ⟨_, exec_adjust_of_gainInSpec hgain⟩
    · exact .inr (.inr ⟨rfl, hgain, exec_adjust_of_not_gainInSpec hgain⟩)
  | _ => exact .inl ⟨_, rfl⟩

/-- Settles O8: the two stops are those of `exec_next_or_stops`. -/
theorem execStopsOnlyHere : Obligations.ExecStopsOnlyHere := by
  refine fun i s => ⟨fun f => ⟨fun h => ?fault, ?faults⟩, fun r => ⟨fun h => ?refused, ?refuses⟩⟩
  case fault =>
    rcases exec_next_or_stops i s with ⟨t, ht⟩ | ⟨hi, hcount, hf⟩ | ⟨-, -, hr⟩
    · cases ht.symm.trans h
    · cases hf.symm.trans h
      exact ⟨hi, hcount, rfl⟩
    · cases hr.symm.trans h
  case faults =>
    rintro ⟨⟨d, rfl⟩, hcount, rfl⟩
    exact exec_payloadByte_of_not_lt hcount.not_gt
  case refused =>
    rcases exec_next_or_stops i s with ⟨t, ht⟩ | ⟨-, -, hf⟩ | ⟨hi, hgain, hr⟩
    · cases ht.symm.trans h
    · cases hf.symm.trans h
    · cases hr.symm.trans h
      exact ⟨hi, (not_gainInSpec_iff s.params).mp hgain, rfl⟩
  case refuses =>
    rintro ⟨rfl, hgain, rfl⟩
    exact exec_adjust_of_not_gainInSpec ((not_gainInSpec_iff s.params).mpr hgain)

end Sys2Proof.Proofs

/-! The invariant (R23 to R34, R61, R131, R141, R210). It falls into four parts that hardly speak of each other: the
sequencing registers, the frame RAM, the scan RAM, the motor registers. Each part is kept by every instruction that is
run in its phase, by the cases of `Result`; a step is such an instruction, or leaves the block alone. -/

namespace Sys2Proof.Proofs

open Sys2Proof.Machine

/-! ### The four parts -/

structure SequencingInv (s : State) : Prop where
  pair : s.ls = s.phase.lifecycle
  count : countLegal s.phase s.count = true
  ready : s.scanReady = decide (s.phase = .waitAck)
  stopIdle : s.ls = .idle → s.stopReq = false
  stopStopping : s.ls = .stopping → s.stopReq = true
  error : s.err ≠ .none → s.ls = .idle

structure FrameInv (s : State) : Prop where
  wf : Memory.wf s.frame = true
  written : ∀ i : Nat, i < s.count.toNat → s.frameWritten i
  header0 : 1 ≤ s.count.toNat → s.frameByte 0 = s.params.hdr0
  header1 : 2 ≤ s.count.toNat → s.frameByte 1 = s.params.hdr1
  accepted : s.phase = .decode → s.frameOk = true ∧ (∀ i : Nat, i < Config.frameSize → s.frameWritten i)
    ∧ s.frameByte 0 = s.params.hdr0 ∧ s.frameByte 1 = s.params.hdr1

/-- A bank in its canonical form whose valid entries hold decoded points. -/
structure BankInv (p : Config.Params) (b : Bank) : Prop where
  wf : Bank.wf b = true
  sound : ∀ j : Nat, pointSound p j (Bank.cell b j)

/-- Every `VALID` of the bank has been written. -/
def BankWritten (b : Bank) : Prop := ∀ j : Nat, j < Config.npoints → (Bank.cell b j).valid.isSome = true

structure ScanInv (s : State) : Prop where
  bank : ∀ k : BankNo, BankInv s.params (s.bank k)
  valid : s.ls ≠ .idle → ∀ k : BankNo, BankWritten (s.bank k)

structure MotorInv (s : State) : Prop where
  speed : s.speedSum.toNat ≤ 5898150
  drive : s.drive.toNat ≤ maxPwm s.pwmRange.toNat
  range : s.ls ≠ .idle → s.params.rangeMin ≤ s.pwmRange.toNat

theorem inv_iff (s : State) : s.Inv ↔ SequencingInv s ∧ FrameInv s ∧ ScanInv s ∧ MotorInv s := by
  constructor
  · intro h
    refine ⟨⟨h.pair, h.count, h.ready, h.stopIdle, h.stopStopping, h.error⟩,
      ⟨h.frameWf, h.written, h.header0, h.header1, h.accepted⟩, ⟨fun k => ?_, h.valid⟩, h.speed, h.drive, h.range⟩
    rcases bankNo_cases k with rfl | rfl
    · exact ⟨h.bank0Wf, h.sound 0#1⟩
    · exact ⟨h.bank1Wf, h.sound 1#1⟩
  · rintro ⟨hs, hf, hb, hm⟩
    exact
      { hs, hf, hm with
        frameWf := hf.wf
        bank0Wf := (hb.bank 0#1).wf
        bank1Wf := (hb.bank 1#1).wf
        valid := hb.valid
        sound := fun k => (hb.bank k).sound }

/-! ### Which instruction runs in which phase (R91, R103) -/

/-- The phase an ENGINE step is taken in; a host command is taken in any. -/
def stepPhase : Instr → Option Phase
  | .huntByte _ | .huntShort _ => some .hunt
  | .hdr1Byte _ | .hdr1Short _ => some .hdr1
  | .payloadByte _ | .payloadShort _ => some .payload
  | .top => some .top
  | .validate => some .validate
  | .decode => some .decode
  | .publish => some .publish
  | .adjust => some .adjust
  | .notify => some .notify
  | .stopseq => some .stopseq
  | .start | .stop | .snapshot | .readPoint _ _ | .readRpm | .readDrive | .readStatus | .setTarget _ | .readTarget
  | .setCb _ | .scanAck | .reserved0 _ | .reservedCF _ => none

/-- The instruction `i` may run in the phase of `s`. -/
def RunsIn (s : State) (i : Instr) : Prop := ∀ p, stepPhase i = some p → s.phase = p

theorem stepPhase_of_command {i : Instr} (hi : i.isEngineStep = false) : stepPhase i = none := by
  cases i with
  | huntByte | huntShort | hdr1Byte | hdr1Short | payloadByte | payloadShort
  | top | validate | decode | publish | adjust | notify | stopseq => cases hi
  | _ => rfl

theorem stepPhase_internalInstr {p : Phase} (h : p.hasInternalStep = true) : stepPhase (internalInstr p) = some p := by
  cases p with
  | idle | hunt | hdr1 | payload | waitAck => cases h
  | _ => rfl

theorem stepPhase_tokenInstr {p : Phase} (tok : Token) (h : p.takesToken = true) :
    stepPhase (tokenInstr p tok) = some p := by
  unfold tokenInstr
  rcases (takesToken_iff p).mp h with rfl | rfl | rfl <;> cases tok.getLsbD 8 <;> rfl

theorem runsIn_command {s : State} {i : Instr} (hi : i.isEngineStep = false) : RunsIn s i := by
  simp [RunsIn, stepPhase_of_command hi]

theorem runsIn_internal {s : State} (h : s.phase.hasInternalStep = true) : RunsIn s (internalInstr s.phase) := by
  simp [RunsIn, stepPhase_internalInstr h]

theorem runsIn_token {s : State} (tok : Token) (h : s.phase.takesToken = true) :
    RunsIn s (tokenInstr s.phase tok) := by
  simp [RunsIn, stepPhase_tokenInstr tok h]

/-! ### The sequencing registers -/

/-- While acquisition runs the clauses on the stop flag and on `ERR` are about other states. -/
theorem sequencingInv_of_running {s t : State} (h : SequencingInv s) (hrunning : s.ls = .running)
    (hls : t.ls = s.ls) (herr : t.err = s.err) (hpair : t.phase.lifecycle = .running)
    (hcount : countLegal t.phase t.count = true) (hready : t.scanReady = decide (t.phase = .waitAck)) :
    SequencingInv t where
  pair := by rw [hls, hrunning, hpair]
  count := hcount
  ready := hready
  stopIdle := by simp [hls, hrunning]
  stopStopping := by simp [hls, hrunning]
  error := by simpa [hls, herr] using h.error

theorem countLegal_payloadByte {s : State} (h : countLegal .payload s.count = true) (hcount : s.count.toNat < 1980) :
    countLegal (if (s.count + 1#11).toNat = 1980 then .validate else .payload) (s.count + 1#11) = true := by
  have hle : 2 ≤ s.count.toNat ∧ s.count.toNat ≤ 1979 := by simpa [countLegal] using h
  have hnext := toNat_count_succ hcount
  split
  · simpa [countLegal]
  · simp [countLegal]
    omega

theorem sequencingInv_stopRequested {s : State} (h : SequencingInv s) : SequencingInv (stopRequested s) where
  pair := h.pair
  count := h.count
  ready := h.ready
  stopIdle hidle := (if_neg (by simp [show s.ls = .idle from hidle])).trans (h.stopIdle hidle)
  stopStopping hstopping := (if_neg (by simp [show s.ls = .stopping from hstopping])).trans (h.stopStopping hstopping)
  error := h.error

theorem sequencingInv_startSequence {s : State} (h : SequencingInv s) (hidle : s.ls = .idle) :
    SequencingInv s.startSequence := by
  rcases startSequence_fatal_or_runs s with ⟨u, e, hu, -, hend⟩ | ⟨n, -, -, hend⟩ <;> rw [hend]
  · have hregs := hu.regs_fatalStart hidle e
    simp only [State.regs, Regs.mk.injEq] at hregs
    obtain ⟨-, hls, hphase, hcount, hstop, -, -, -, -, -, -, hready, -⟩ := hregs
    exact
      { pair := by rw [hls, hphase, h.pair]
        count := by rw [hphase, hcount, h.count]
        ready := by rw [hready, hphase, h.ready]
        stopIdle := fun _ => hstop.trans (h.stopIdle hidle)
        stopStopping := fun hstopping => absurd (hstopping.symm.trans (hls.trans hidle)) (by decide)
        error := fun _ => hls.trans hidle }
  · exact ⟨by simp [Phase.lifecycle], by simp [countLegal], by simp, by simp, by simp, by simp [err_afterPwmSetUp]⟩

theorem SequencingInv.exec {i : Instr} {s t : State} (h : SequencingInv s) (hp : RunsIn s i)
    (hexec : exec i s = .next t) : SequencingInv t := by
  have hpair := h.pair
  have hcount := h.count
  have hready := h.ready
  cases result_of_exec hexec with
  | answers | race | setTarget | setCb => exact ⟨hpair, hcount, hready, h.stopIdle, h.stopStopping, h.error⟩
  | stop =>
    have h := sequencingInv_stopRequested h
    exact ⟨h.pair, h.count, h.ready, h.stopIdle, h.stopStopping, h.error⟩
  | start hidle => exact sequencingInv_startSequence h hidle
  | ack hphase =>
    rw [hphase] at hpair hcount
    exact sequencingInv_of_running h hpair rfl rfl rfl hcount rfl
  | topStops hstop =>
    rw [hp _ rfl] at hpair hcount hready
    have herr := h.error
    refine ⟨rfl, hcount, hready, nofun, fun _ => hstop, fun he => ?_⟩
    exact absurd (hpair.symm.trans (herr he)) (by decide)
  | stopseq =>
    rw [hp _ rfl] at hcount hready
    exact ⟨by simp [stopped, Phase.lifecycle], by simpa [stopped, countLegal] using hcount, by simpa [stopped] using hready,
      by simp [stopped], by simp [stopped], by simp [stopped]⟩
  | payloadByte d hlt =>
    rw [hp _ rfl] at hpair hcount hready
    refine sequencingInv_of_running h hpair (by simp) (by simp) ?_ ?_ ?_ <;>
      rw [State.payloadByte_phase, hp _ rfl]
    · split <;> rfl
    · rw [State.payloadByte_count]; exact countLegal_payloadByte hcount hlt
    · rw [State.payloadByte_scanReady, hready]; split <;> rfl
  | _ =>
    have hphase := hp _ rfl
    rw [hphase] at hpair
    refine sequencingInv_of_running h hpair ?_ ?_ ?_ ?_ ?_ <;>
      simp_all [Phase.lifecycle, countLegal, decoded, published, adjusted, notified]

/-! ### The frame RAM -/

theorem word_congr {s t : State} (h : frameKept s t) (p i : Nat) : t.word p i = s.word p i := by
  rw [State.word, State.le16, h, h]
  rfl

/-- A frame is accepted by its bytes alone. -/
theorem frameOk_congr {s t : State} (h : frameKept s t) : t.frameOk = s.frameOk := by
  have hpass (p : Nat) : t.pass p = s.pass p := by
    have hwords : t.packetWords p = s.packetWords p := List.map_congr_left fun i _ => word_congr h p i
    rw [State.pass, State.pass, State.chk, State.chk, stored_eq_word, stored_eq_word, word_congr h, hwords]
  rw [Bool.eq_iff_iff, frameOk_iff, frameOk_iff]
  simp only [hpass]

/-- With the frame RAM as it was and no more of it counted, the clauses stay, and DECODE needs its own. -/
theorem FrameInv.of_frame_eq {s t : State} (h : FrameInv s) (hparams : t.params = s.params) (hframe : t.frame = s.frame)
    (hboots : t.boots = s.boots) (hcount : t.count.toNat ≤ s.count.toNat)
    (hdecode : t.phase = .decode → s.phase ≠ .decode → s.count.toNat = 1980 ∧ s.frameOk = true) : FrameInv t := by
  have hkept : frameKept s t := State.frameByte_congr s t hframe hboots
  have hwritten (i : Nat) : t.frameWritten i ↔ s.frameWritten i := by rw [State.frameWritten, hframe]; rfl
  constructor
  · rw [hframe]; exact h.wf
  · exact fun i hi => (hwritten i).mpr (h.written i (by omega))
  · rw [hkept, hparams]; exact fun hc => h.header0 (by omega)
  · rw [hkept, hparams]; exact fun hc => h.header1 (by omega)
  · simp only [frameOk_congr hkept, hwritten, hkept _, hparams]
    intro hphase
    by_cases hbefore : s.phase = .decode
    · exact h.accepted hbefore
    · obtain ⟨hcount, hok⟩ := hdecode hphase hbefore
      exact ⟨hok, fun i hi => h.written i (by rw [hcount]; exact hi), h.header0 (by omega), h.header1 (by omega)⟩

theorem frameWritten_putFrame {s : State} {i j : Nat} {d : Byte} (h : j ≠ i → s.frameWritten j) :
    (s.putFrame i d).frameWritten j := by
  by_cases hj : j = i
  · simp [State.frameWritten, hj]
  · simpa [State.frameWritten, Memory.read_write_other _ _ hj] using h hj

/-- The byte stored at `COUNT`, and counted: the header bytes are the only ones a clause names. -/
theorem FrameInv.of_stored {s t : State} {d : Byte} {n : Nat} (h : FrameInv s) (hparams : t.params = s.params)
    (hframe : t.frame = (s.putFrame n d).frame) (hboots : t.boots = s.boots) (hn : n < 1980)
    (hcounted : n ≤ s.count.toNat) (hcount : t.count.toNat = n + 1) (h0 : n = 0 → d = s.params.hdr0)
    (h1 : n = 1 → d = s.params.hdr1) (hphase : t.phase ≠ .decode) : FrameInv t := by
  have hbyte (i : Nat) : t.frameByte i = (s.putFrame n d).frameByte i := State.frameByte_congr (s.putFrame n d) t hframe hboots i
  have hother {i : Nat} (hi : i ≠ n) : t.frameByte i = s.frameByte i :=
    (hbyte i).trans (State.frameByte_putFrame_other s d hi)
  have hsame : t.frameByte n = d := (hbyte n).trans (State.frameByte_putFrame_same s n d)
  constructor
  · rw [hframe]; exact Memory.wf_write _ _ _ h.wf hn
  · intro i hi
    have hput : (s.putFrame n d).frameWritten i := frameWritten_putFrame fun hne => h.written i (by omega)
    rwa [State.frameWritten, hframe]
  · intro _
    by_cases hzero : n = 0
    · rw [← hzero, hsame, h0 hzero, hparams]
    · rw [hother (Ne.symm hzero), h.header0 (by omega), hparams]
  · intro hc
    by_cases hone : n = 1
    · rw [← hone, hsame, h1 hone, hparams]
    · rw [hother (Ne.symm hone), h.header1 (by omega), hparams]
  · exact fun hd => absurd hd hphase

/-- A START leaves PHASE and COUNT, or brings them to the top of an iteration. -/
theorem startSequence_phase_count (s : State) :
    (s.startSequence.phase = s.phase ∧ s.startSequence.count = s.count)
      ∨ (s.startSequence.phase = .top ∧ s.startSequence.count = 0#11) := by
  rcases startSequence_fatal_or_runs s with ⟨u, e, hu, -, hend⟩ | ⟨n, -, -, hend⟩ <;> rw [hend]
  · exact .inl ⟨congrArg Regs.phase hu.regs, congrArg Regs.count hu.regs⟩
  · exact .inr ⟨State.beginRun_phase _ n, State.beginRun_count _ n⟩

theorem FrameInv.exec {i : Instr} {s t : State} (h : FrameInv s) (hseq : SequencingInv s) (hp : RunsIn s i)
    (hexec : exec i s = .next t) : FrameInv t := by
  have hcount := hseq.count
  have w := writtenBy_of_exec hexec
  cases result_of_exec hexec with
  | huntCandidate h0 | hdr1Candidate h0 =>
    exact h.of_stored w.params (State.candidate_frame s _) w.boots (by decide) (Nat.zero_le _) rfl (fun _ => h0) nofun nofun
  | hdr1Match h1 =>
    rw [hp _ rfl] at hcount
    have hcount : s.count.toNat = 1 := by simpa [countLegal] using hcount
    exact h.of_stored w.params (State.headerMatched_frame s _) w.boots (by decide) hcount.ge rfl nofun (fun _ => h1) nofun
  | payloadByte d hlt => 
    rw [hp _ rfl] at hcount
    have hle : 2 ≤ s.count.toNat ∧ s.count.toNat ≤ 1979 := by simpa [countLegal] using hcount
    refine h.of_stored w.params (State.payloadByte_frame s d) w.boots hlt le_rfl ?_ (by omega) (by omega) ?_
    · rw [State.payloadByte_count, toNat_count_succ hlt]
    · rw [State.payloadByte_phase, hp _ rfl]
      split <;> nofun
  | accepts hok =>
    rw [hp _ rfl] at hcount
    have hcount : s.count.toNat = 1980 := by simpa [countLegal] using hcount
    exact h.of_frame_eq w.params (w.frame rfl) w.boots (Nat.zero_le _) fun _ _ => ⟨hcount, hok⟩
  | start hidle =>
    rcases startSequence_phase_count s with ⟨hphase, hcount⟩ | ⟨hphase, hcount⟩
    · exact h.of_frame_eq w.params (w.frame rfl) w.boots (by rw [hcount]) (by rw [hphase]; exact absurd)
    · exact h.of_frame_eq w.params (w.frame rfl) w.boots (by rw [hcount]; exact Nat.zero_le _) (by rw [hphase]; nofun)
  | _ =>
    refine h.of_frame_eq w.params ?_ w.boots ?_ ?_ <;>
      simp +contextual [stopRequested, acknowledged, decoded, published, adjusted, notified, stopped]

/-! ### The scan RAM -/

theorem pointSound_of_not_valid {p : Config.Params} {j : Nat} {c : ScanCell} (h : c.valid ≠ some true) :
    pointSound p j c := fun hvalid => absurd hvalid h

theorem BankInv.invalidated {p : Config.Params} {b : Bank} (h : BankInv p b) : BankInv p (invalidated b) := by
  refine ⟨wf_invalidated b h.wf, fun j => ?_⟩
  rw [cell_invalidated]
  split
  · exact pointSound_of_not_valid (by simp)
  · exact h.sound j

theorem bankWritten_invalidated (b : Bank) : BankWritten (invalidated b) := by
  intro j hj
  rw [cell_invalidated, if_pos hj]
  rfl

/-- What DECODE writes is a decoded point, or not valid (R142 to R144). -/
theorem pointSound_decodedCell (s : State) (j : Nat) (c : ScanCell) : pointSound s.params j (s.decodedCell j c) := by
  by_cases hskip : s.skipped (packetOf j) (chunkOf j) = true
  · exact pointSound_of_not_valid (by simp [decodedCell_valid, hskip])
  · have hdist : s.dist (packetOf j) (chunkOf j) ≠ 0#14 := fun hzero => hskip ((skipped_iff s _ _).mpr (.inr hzero))
    intro _
    rw [State.decodedCell, if_neg hskip]
    exact ⟨rfl, rfl, _, hdist, rfl, rfl, rfl⟩

theorem BankInv.decodedBank {s : State} {b : Bank} (h : BankInv s.params b) :
    BankInv s.params (s.decodedBank b) := by
  refine ⟨wf_decodedBank s b h.wf, fun j => ?_⟩
  rw [cell_decodedBank]
  split
  · exact pointSound_decodedCell s j _
  · exact h.sound j

theorem bankWritten_decodedBank (s : State) (b : Bank) : BankWritten (s.decodedBank b) := by
  intro j hj
  rw [cell_decodedBank, if_pos hj, decodedCell_valid]
  rfl

/-- With both banks as they were, the clauses stay unless acquisition begins. -/
theorem ScanInv.of_bank_eq {s t : State} (h : ScanInv s) (hparams : t.params = s.params) (h0 : t.bank0 = s.bank0)
    (h1 : t.bank1 = s.bank1) (hls : t.ls ≠ .idle → s.ls ≠ .idle) : ScanInv t := by
  have hbank (k : BankNo) : t.bank k = s.bank k := by rw [State.bank, h0, h1]; rfl
  constructor
  · simpa only [hbank, hparams] using h.bank
  · simpa only [hbank] using fun ht => h.valid (hls ht)

theorem bank_decoded (s : State) (k : BankNo) :
    (decoded s).bank k = if k = s.wrSel then s.decodedBank (s.bank k) else s.bank k := by
  split
  case isTrue hk => subst hk; exact State.bank_putBank_same s _ _
  case isFalse hk => exact State.bank_putBank_other s _ hk

theorem scanInv_decoded {s : State} (h : ScanInv s) : ScanInv (decoded s) := by
  have hparams : (decoded s).params = s.params := by simp [decoded]
  have hls : (decoded s).ls = s.ls := by simp [decoded]
  constructor
  · intro k
    rw [hparams, bank_decoded]
    split
    · exact (h.bank k).decodedBank
    · exact h.bank k
  · intro hidle k
    rw [bank_decoded]
    split
    · exact bankWritten_decodedBank s _
    · exact h.valid (hls ▸ hidle) k

theorem scanInv_startSequence {s : State} (h : ScanInv s) : ScanInv s.startSequence := by
  rcases startSequence_fatal_or_runs s with ⟨u, e, hu, -, hend⟩ | ⟨n, -, -, hend⟩ <;> rw [hend]
  · exact h.of_bank_eq (congrArg Regs.params hu.regs) hu.bank0 hu.bank1 (by simp)
  · have hbank (k : BankNo) : ((afterPwmSetUp s).beginRun n).bank k = invalidated (s.bank k) := by
      simp [State.bank, apply_ite invalidated]
    constructor
    · simpa only [hbank, State.beginRun_params, afterPwmSetUp_params] using fun k => (h.bank k).invalidated
    · simpa only [hbank] using fun _ k => bankWritten_invalidated _

theorem ScanInv.exec {i : Instr} {s t : State} (h : ScanInv s) (hseq : SequencingInv s) (hp : RunsIn s i)
    (hexec : exec i s = .next t) : ScanInv t := by
  have w := writtenBy_of_exec hexec
  cases result_of_exec hexec with
  | start => exact scanInv_startSequence h
  | decode => exact scanInv_decoded h
  | topStops =>
    have hpair := hseq.pair
    rw [hp _ rfl] at hpair
    exact h.of_bank_eq rfl rfl rfl fun _ => by rw [hpair]; nofun
  | _ =>
    refine h.of_bank_eq w.params ?_ ?_ ?_ <;>
      simp [stopRequested, acknowledged, published, adjusted, notified, stopped]

/-! ### The motor registers -/

theorem MotorInv.of_regs_eq {s t : State} (h : MotorInv s) (hparams : t.params = s.params)
    (hspeed : t.speedSum = s.speedSum) (hdrive : t.drive = s.drive) (hrange : t.pwmRange = s.pwmRange)
    (hls : t.ls ≠ .idle → s.ls ≠ .idle) : MotorInv t := by
  constructor
  · rw [hspeed]; exact h.speed
  · rw [hdrive, hrange]; exact h.drive
  · rw [hparams, hrange]; exact fun ht => h.range (hls ht)

theorem motorInv_startSequence {s : State} (h : MotorInv s) : MotorInv s.startSequence := by
  rcases startSequence_fatal_or_runs s with ⟨u, e, hu, -, hend⟩ | ⟨n, hmin, hmax, hend⟩ <;> rw [hend]
  · exact h.of_regs_eq (congrArg Regs.params hu.regs) (congrArg Regs.speedSum hu.regs) (congrArg Regs.drive hu.regs)
      (congrArg Regs.pwmRange hu.regs) (by simp)
  · constructor
    · simp
    · rw [State.beginRun_drive, State.beginRun_pwmRange, toNat_presetDrive hmax, toNat_range hmax, maxPwm]
      omega
    · intro _
      rwa [State.beginRun_params, State.beginRun_pwmRange, afterPwmSetUp_params, toNat_range hmax]

theorem toNat_adjusted_drive_le (s : State) : (adjusted s).drive.toNat ≤ maxPwm s.pwmRange.toNat := by
  have hle := newDrive_le_maxPwm s
  rw [← toNat_adjusted_drive] at hle
  exact Int.ofNat_le.mp hle

theorem MotorInv.exec {i : Instr} {s t : State} (h : MotorInv s) (hseq : SequencingInv s) (hp : RunsIn s i)
    (hexec : exec i s = .next t) : MotorInv t := by
  have w := writtenBy_of_exec hexec
  cases result_of_exec hexec with
  | start => exact motorInv_startSequence h
  | decode =>
    refine ⟨(decoded_speedSum s).le.trans (speedTotal_le s), ?_, ?_⟩
    · rw [w.drive nofun nofun nofun, w.pwmRange nofun]; exact h.drive
    · rw [w.ls nofun nofun nofun, w.params, w.pwmRange nofun]; exact h.range
  | adjust => exact ⟨h.speed, toNat_adjusted_drive_le s, h.range⟩
  | stopseq =>
    refine ⟨?_, by simp [stopped], by simp [stopped]⟩
    rw [w.speedSum nofun nofun]
    exact h.speed
  | topStops =>
    have hpair := hseq.pair
    rw [hp _ rfl] at hpair
    exact h.of_regs_eq rfl rfl rfl rfl fun _ => by rw [hpair]; nofun
  | _ =>
    refine h.of_regs_eq w.params ?_ ?_ ?_ ?_ <;> simp [stopRequested, acknowledged, published, notified]

/-! ### The invariant -/

/-- An instruction run in its phase keeps the invariant. -/
theorem inv_of_exec {i : Instr} {s t : State} (h : s.Inv) (hp : RunsIn s i) (hexec : exec i s = .next t) : t.Inv := by
  obtain ⟨hseq, hframe, hscan, hmotor⟩ := (inv_iff s).mp h
  exact (inv_iff t).mpr ⟨hseq.exec hp hexec, hframe.exec hseq hp hexec, hscan.exec hseq hp hexec,
    hmotor.exec hseq hp hexec⟩

/-- The invariant speaks of the registers and the RAMs, not of the world. -/
theorem inv_congr {s t : State} (h : s.Inv) (hregs : t.regs = s.regs)
    (hram : (t.frame, t.bank0, t.bank1, t.boots) = (s.frame, s.bank0, s.bank1, s.boots)) : t.Inv := by
  simp only [State.regs, Regs.mk.injEq] at hregs
  simp only [Prod.mk.injEq] at hram
  obtain ⟨hparams, hls, hphase, hcount, hstop, -, hspeed, -, hrange, hdrive, -, hready, herr⟩ := hregs
  obtain ⟨hframe, hbank0, hbank1, hboots⟩ := hram
  obtain ⟨hseq, hf, hscan, hmotor⟩ := (inv_iff s).mp h
  have hseq' : SequencingInv t :=
    { pair := by rw [hls, hphase, hseq.pair]
      count := by rw [hphase, hcount, hseq.count]
      ready := by rw [hready, hphase, hseq.ready]
      stopIdle := by rw [hls, hstop]; exact hseq.stopIdle
      stopStopping := by rw [hls, hstop]; exact hseq.stopStopping
      error := by rw [herr, hls]; exact hseq.error }
  exact (inv_iff t).mpr ⟨hseq', hf.of_frame_eq hparams hframe hboots (by rw [hcount]) (by rw [hphase]; exact absurd),
    hscan.of_bank_eq hparams hbank0 hbank1 (by rw [hls]; exact id),
    hmotor.of_regs_eq hparams hspeed hdrive hrange (by rw [hls]; exact id)⟩

/-- Nothing written, and every register at its reset value (R39): no clause asks for more. -/
theorem inv_of_blank {s : State} (hregs : s.regs = { State.reset.regs with params := s.params, target := s.target })
    (hram : (s.frame, s.bank0, s.bank1) = ([], [], [])) : s.Inv := by
  simp only [State.regs, Regs.mk.injEq, Prod.mk.injEq] at hregs hram
  obtain ⟨-, hls, hphase, hcount, hstop, -, hspeed, -, hrange, hdrive, -, hready, herr⟩ := hregs
  obtain ⟨hframe, hbank0, hbank1⟩ := hram
  have hbank (k : BankNo) : s.bank k = [] := by simp [State.bank, hbank0, hbank1]
  refine (inv_iff s).mpr ⟨?sequencing, ?frame, ?scan, ?motor⟩
  case sequencing => constructor <;> simp [hls, hphase, hcount, hstop, hready, herr, State.reset, Phase.lifecycle, countLegal]
  case frame => constructor <;> simp [hphase, hcount, hframe, State.reset, Memory.wf, cellsSorted]
  case scan => exact ⟨fun k => hbank k ▸ ⟨rfl, fun j => pointSound_of_not_valid nofun⟩, fun h => absurd hls h⟩
  case motor => constructor <;> simp [hls, hspeed, hdrive, State.reset]

/-- Settles O58. -/
theorem invariantHoldsAtReset : Obligations.InvariantHoldsAtReset := inv_of_blank rfl rfl

theorem inv_setTurns {s : State} (h : s.Inv) (ts : List Turn) : (s.setTurns ts).Inv := inv_congr h rfl rfl

theorem inv_of_command {s t : State} {c : Word} (h : s.Inv) (hrun : runInput (.command c) s = .next t) : t.Inv := by
  cases hd : decode (.command c) with
  | instr i =>
    simp only [runInput, hd] at hrun
    exact inv_of_exec h (runsIn_command (isEngineStep_of_decode_command hd)) hrun
  | rejected e =>
    simp only [runInput, hd, decode_command_rejected hd, runRejected] at hrun
    cases hrun
    exact inv_congr h rfl rfl

/-- Settles O59: a step runs an instruction in its phase, or is a turn that writes no register and no RAM, or is the
power-on reset. -/
theorem stepKeepsTheInvariant : Obligations.StepKeepsTheInvariant := by
  intro s t h hstep
  rcases step_cases s t hstep with ⟨ts, rfl, -⟩ | ⟨ts, -, rfl⟩ | ⟨c, ts, -, hcommand⟩
    | ⟨ts, -, hinternal, -, hexec⟩ | ⟨ts, tok, more, -, htakes, -, -, hexec⟩ | ⟨a, ts, -, rfl⟩ | ⟨ts, -, hpoll⟩
  · exact inv_setTurns h ts
  · exact inv_of_blank rfl rfl
  · exact inv_of_command (inv_setTurns h ts) hcommand
  · exact inv_of_exec (inv_setTurns h ts) (runsIn_internal hinternal) hexec
  · have hinv : ((s.setTurns ts).setRx more).Inv := inv_congr h rfl rfl
    exact inv_of_exec hinv (runsIn_token tok htakes) hexec
  · exact inv_congr h rfl rfl
  · refine inv_of_exec ?_ (runsIn_command rfl) hpoll
    split
    · exact inv_setTurns h ts
    · exact h

end Sys2Proof.Proofs

/-! One step, and a few of them (R3, R91, R100, R103, R260). A turn of the ENGINE or of the TRANSPORT is one of four
things, each an equation; bounded runs are chains of these equations. -/

namespace Sys2Proof.Proofs

open Sys2Proof.Machine

/-! ### Which agent the next turn is -/

section Fetch

variable {s : State} {rest : List Turn}

theorem fetch_engine (h : s.turns = .engine :: rest) : fetch s = fetchInternal (s.setTurns rest) := by
  simp only [fetch, h]

theorem fetch_transport (h : s.turns = .transport :: rest) : fetch s = fetchToken (s.setTurns rest) := by
  simp only [fetch, h]

/-- With nothing scheduled the ENGINE goes on by itself (log 1). -/
theorem fetch_unscheduled_internal (h : s.turns = []) (htakes : ¬ s.phase.takesToken = true) :
    fetch s = fetchInternal s := by
  simp only [fetch, h, fetchUnscheduled, if_neg htakes]

theorem fetch_unscheduled_token (h : s.turns = []) (htakes : s.phase.takesToken = true) : fetch s = fetchToken s := by
  simp only [fetch, h, fetchUnscheduled, if_pos htakes]

end Fetch

/-! ### What that turn does -/

section Turns

variable {s u : State}

theorem step_internal (hfetch : fetch s = fetchInternal u) (hpair : u.ls = u.phase.lifecycle)
    (hinternal : u.phase.hasInternalStep = true) : step s = exec (internalInstr u.phase) u := by
  simp only [step, hfetch, fetchInternal, State.pairLegal, hpair, hinternal, decide_true, Bool.not_true,
    Bool.false_eq_true, if_false, if_true, runInput, decode_internal _ hinternal]

theorem step_internal_held (hfetch : fetch s = fetchInternal u) (hpair : u.ls = u.phase.lifecycle)
    (hinternal : u.phase.hasInternalStep = false) : step s = .next u := by
  simp only [step, hfetch, fetchInternal, State.pairLegal, hpair, hinternal, decide_true, Bool.not_true,
    Bool.false_eq_true, if_false]

theorem step_token {tok : Token} {more : List Token} (hfetch : fetch s = fetchToken u)
    (hpair : u.ls = u.phase.lifecycle) (htakes : u.phase.takesToken = true) (hrx : u.rx = tok :: more) :
    step s = exec (tokenInstr u.phase tok) (u.setRx more) := by
  simp only [step, hfetch, fetchToken, State.pairLegal, hpair, htakes, hrx, decide_true, Bool.not_true,
    Bool.false_eq_true, if_false, if_true, runInput, decode_token _ tok htakes]

theorem step_token_held (hfetch : fetch s = fetchToken u) (hpair : u.ls = u.phase.lifecycle)
    (hheld : u.phase.takesToken = false ∨ u.rx = []) : step s = .next u := by
  rcases fetchToken_cases u with ⟨hne, -⟩ | ⟨tok, more, -, htakes, hrx, -⟩ | ⟨-, -, hhold⟩
  · exact absurd hpair hne
  · simp [htakes, hrx] at hheld
  · simp only [step, hfetch, hhold]

end Turns

/-- Settles O9: the equation of each kind of turn; what a phase code or a token decodes to is what runs. -/
theorem stepRunsTheDecodedInstruction : Obligations.StepRunsTheDecodedInstruction := by
  intro s i rest t more
  refine ⟨fun c hturns hd => ?host, fun hpair hinternal hd => ?engine, fun hpair htakes hrx hd => ?transport,
    fun a hturns => ?answer, fun hturns => ?poll⟩
  case host => rw [step_host hturns, runInput, hd]
  case engine =>
    obtain rfl := Decoded.instr.inj ((decode_internal s.phase hinternal).symm.trans hd)
    have htakes : ¬ s.phase.takesToken = true := fun h => not_hasInternalStep_of_takesToken h hinternal
    exact ⟨fun hturns => step_internal (u := s.setTurns rest) (fetch_engine hturns) hpair hinternal,
      fun hturns => step_internal (fetch_unscheduled_internal hturns htakes) hpair hinternal⟩
  case transport =>
    obtain rfl := Decoded.instr.inj ((decode_token s.phase t htakes).symm.trans hd)
    exact ⟨fun hturns => step_token (u := s.setTurns rest) (fetch_transport hturns) hpair htakes hrx,
      fun hturns => step_token (fetch_unscheduled_token hturns htakes) hpair htakes hrx⟩
  case answer => simp only [step, fetch, hturns]
  case poll => simp only [step, fetch, hturns, runInput, decode_readStatus, State.readsIdle_iff]

theorem effect_refl (s : State) : Effect s s s.regs [] := effect_of_registers rfl rfl rfl (List.append_nil _).symm

/-- Settles O11: the turn is taken, and that is all. -/
theorem heldAgentsChangeNothing : Obligations.HeldAgentsChangeNothing := by
  rintro s rest hpair (⟨hturns, hinternal⟩ | ⟨hturns, hheld⟩)
  · exact ⟨_, step_internal_held (fetch_engine hturns) hpair hinternal, rfl, rfl, effect_refl (s.setTurns rest)⟩
  · exact ⟨_, step_token_held (fetch_transport hturns) hpair hheld, rfl, rfl, effect_refl (s.setTurns rest)⟩

/-! ### Reset (R39, R260) -/

theorem step_powerOn {s : State} {rest : List Turn} (h : s.turns = .powerOn :: rest) :
    step s = .next (s.setTurns rest).powerOnReset := by
  simp only [step, fetch, h]

theorem cell_of_blank {s : State} (h : (s.bank0, s.bank1) = ([], [])) (k : BankNo) (j : Nat) :
    Bank.cell (s.bank k) j = unwrittenCell := by
  obtain ⟨h0, h1⟩ := Prod.mk.inj h
  simp [State.bank, h0, h1]

/-- Settles O57: the registers are those of `State.reset`, the world is kept. -/
theorem powerOnResetAtAnyTime : Obligations.PowerOnResetAtAnyTime := fun _ _ hturns =>
  ⟨_, step_powerOn hturns, rfl, rfl, rfl, rfl, rfl, fun _ => rfl, cell_of_blank rfl⟩

/-- The LUT ROM at the parameters of R6 is the table of R151. -/
theorem map_qw_params : (List.range 91).map (qw Config.params) = quarterWave := by decide +kernel

/-- Settles O56: every clause but the ROM's is read off `State.reset`. -/
theorem resetValues : Obligations.ResetValues :=
  ⟨rfl, rfl, rfl, rfl, rfl, rfl, rfl, rfl, rfl, rfl, rfl, rfl, rfl, fun _ => rfl, cell_of_blank rfl, map_qw_params⟩

end Sys2Proof.Proofs

/-! Runs of the ENGINE (R214, R246, R248). A step from the invariant never stops; a pending stop, a RUN of the script
and the way from one PUBLISH to the next are read off what each turn does to PHASE. -/

namespace Sys2Proof.Proofs

open Sys2Proof.Machine

/-! ### No step stops (U8, U17) -/

theorem exec_next_of_inv {s : State} {i : Instr} (h : s.Inv) (hgain : gainInSpec s.params = true) (hp : RunsIn s i) :
    ∃ t, exec i s = .next t := by
  rcases exec_next_or_stops i s with hnext | ⟨⟨d, rfl⟩, hcount, -⟩ | ⟨-, hbad, -⟩
  · exact hnext
  · have hlegal := h.count
    rw [hp _ rfl] at hlegal
    have hle : 2 ≤ s.count.toNat ∧ s.count.toNat ≤ 1979 := by simpa [countLegal] using hlegal
    omega
  · exact absurd hgain hbad

theorem runInput_command_next {s : State} (h : s.Inv) (hgain : gainInSpec s.params = true) (c : Word) :
    ∃ t, runInput (.command c) s = .next t := by
  cases hd : decode (.command c) with
  | instr i =>
    simp only [runInput, hd]
    exact exec_next_of_inv h hgain (runsIn_command (isEngineStep_of_decode_command hd))
  | rejected e => exact ⟨s.badCommand, by simp only [runInput, hd, decode_command_rejected hd, runRejected]⟩

section InvariantTurns

variable {s u : State} (h : u.Inv) (hgain : gainInSpec u.params = true)
include h hgain

theorem step_internal_next (hfetch : fetch s = fetchInternal u) : ∃ t, step s = .next t := by
  cases hinternal : u.phase.hasInternalStep with
  | true =>
    rw [step_internal hfetch h.pair hinternal]
    exact exec_next_of_inv h hgain (runsIn_internal hinternal)
  | false => exact ⟨u, step_internal_held hfetch h.pair hinternal⟩

theorem step_token_next (hfetch : fetch s = fetchToken u) : ∃ t, step s = .next t := by
  by_cases hheld : u.phase.takesToken = false ∨ u.rx = []
  · exact ⟨u, step_token_held hfetch h.pair hheld⟩
  · obtain ⟨htakes, hrx⟩ := not_or.mp hheld
    obtain ⟨tok, more, hrx⟩ := List.exists_cons_of_ne_nil hrx
    have htakes : u.phase.takesToken = true := by simpa using htakes
    rw [step_token hfetch h.pair htakes hrx]
    have hinv : (u.setRx more).Inv := inv_congr h rfl rfl
    exact exec_next_of_inv hinv hgain (runsIn_token tok htakes)

end InvariantTurns

/-- Settles O60: each kind of turn gives a next state. -/
theorem invariantStatesNeverStop : Obligations.InvariantStatesNeverStop := by
  intro s h hgain
  cases hturns : s.turns with
  | nil =>
    by_cases htakes : s.phase.takesToken = true
    · exact step_token_next h hgain (fetch_unscheduled_token hturns htakes)
    · exact step_internal_next h hgain (fetch_unscheduled_internal hturns htakes)
  | cons turn rest =>
    have hrest := inv_setTurns h rest
    cases turn with
    | host c =>
      rw [step_host hturns]
      exact runInput_command_next hrest hgain c
    | engine => exact step_internal_next hrest hgain (fetch_engine hturns)
    | transport => exact step_token_next hrest hgain (fetch_transport hturns)
    | powerOn => exact ⟨_, step_powerOn hturns⟩
    | answer a => exact ⟨_, by simp only [step, fetch, hturns]; rfl⟩
    | pollIdle => exact ⟨_, by simp only [step, fetch, hturns, runInput, decode_readStatus]; rfl⟩

/-! ### Runs -/

theorem run_succ {n : Nat} {s t : State} (h : step s = .next t) :
    Host.Core.run Sys2Proof.core (n + 1) s = Host.Core.run Sys2Proof.core n t := by
  simp only [Host.Core.run, core, h]

theorem step_top_of_stopReq {s : State} {rest : List Turn} (hpair : s.ls = s.phase.lifecycle) (hphase : s.phase = .top)
    (hstop : s.stopReq = true) (hturns : s.turns = .engine :: rest) :
    step s = .next (s.setTurns rest |>.setLs .stopping |>.setPhase .stopseq) := by
  rw [step_internal (fetch_engine hturns) hpair (by simp [hphase, Phase.hasInternalStep]), State.setTurns_phase, hphase]
  exact exec_top_of_stopReq hstop

theorem step_stopseq {s : State} {rest : List Turn} (hls : s.ls = .stopping) (hphase : s.phase = .stopseq)
    (hturns : s.turns = .engine :: rest) : step s = .next (stopped (s.setTurns rest)) := by
  have hpair : s.ls = s.phase.lifecycle := by rw [hls, hphase]; rfl
  rw [step_internal (fetch_engine hturns) hpair (by simp [hphase, Phase.hasInternalStep]), State.setTurns_phase, hphase]
  exact exec_stopseq _

/-- Settles O53: TOP goes to STOPSEQ, and STOPSEQ to IDLE. -/
theorem pendingStopReachesIdle : Obligations.PendingStopReachesIdle := by
  intro s rest hls hphase hstop hturns
  have htop := step_top_of_stopReq (by rw [hls, hphase]; rfl) hphase hstop hturns
  have hstopseq := step_stopseq (rest := rest) (s := (s.setTurns (.engine :: rest)).setLs .stopping |>.setPhase .stopseq)
    rfl rfl rfl
  refine ⟨_, (run_succ htop).trans (run_succ hstopseq), ?_, ?_, ?_, ?_, ?_, ?_, ?_, ?_,
    State.frameByte_congr s _ ?_ ?_, State.scanEntry_congr s _ ?_ ?_ ?_⟩ <;> simp [stopped]

/-- How many internal steps the ENGINE has before it waits, at most (R214). -/
def stepsLeft : Phase → Nat
  | .stopseq => 1
  | .top => 2
  | .notify => 3
  | .adjust => 4
  | .publish => 5
  | .decode => 6
  | .validate => 7
  | .idle | .hunt | .hdr1 | .payload | .waitAck => 0

theorem stepsLeft_eq_zero_iff (p : Phase) : stepsLeft p = 0 ↔ p.hasInternalStep = false := by
  cases p <;> decide

theorem stepsLeft_le (p : Phase) : stepsLeft p ≤ runTurns := by
  cases p <;> decide

theorem stepsLeft_nextPhase {s : State} (h : s.phase.hasInternalStep = true) :
    stepsLeft (nextPhase s) < stepsLeft s.phase := by
  unfold nextPhase
  cases hp : s.phase with
  | top | validate | notify => simp only; split <;> decide
  | decode | publish | adjust | stopseq => exact Nat.lt_succ_self _
  | idle | hunt | hdr1 | payload | waitAck => rw [hp] at h; cases h

/-- An internal step brings the ENGINE nearer to waiting, and takes no turn and no token. -/
theorem exec_internal_advances {s : State} (hpair : s.ls = s.phase.lifecycle)
    (hinternal : s.phase.hasInternalStep = true) (hgain : gainInSpec s.params = true) :
    ∃ t, exec (internalInstr s.phase) s = .next t ∧ t.ls = t.phase.lifecycle ∧ stepsLeft t.phase < stepsLeft s.phase
      ∧ t.params = s.params ∧ t.turns = s.turns ∧ t.rx = s.rx := by
  rcases exec_next_or_stops (internalInstr s.phase) s with ⟨t, ht⟩ | ⟨⟨d, hd⟩, -⟩ | ⟨-, hbad, -⟩
  · have w := writtenBy_of_exec ht
    obtain ⟨hnext, hpair'⟩ := exec_internal_moves hpair hinternal ht
    exact ⟨t, ht, hpair', hnext ▸ stepsLeft_nextPhase hinternal, w.params, w.turns, w.rx⟩
  · have hphase := runsIn_internal hinternal .payload (hd ▸ rfl)
    rw [hphase] at hinternal
    cases hinternal
  · exact absurd hgain hbad

/-- As many ENGINE turns as the phase has steps left bring it to a phase that waits. -/
theorem run_engine_waits (n : Nat) (s : State) (rest : List Turn) (hpair : s.ls = s.phase.lifecycle)
    (hgain : gainInSpec s.params = true) (hleft : stepsLeft s.phase ≤ n)
    (hturns : s.turns = List.replicate n .engine ++ rest) :
    ∃ t, Host.Core.run Sys2Proof.core n s = .next t ∧ t.turns = rest ∧ t.rx = s.rx
      ∧ t.phase.hasInternalStep = false := by
  induction n generalizing s with
  | zero => exact ⟨s, rfl, hturns, rfl, (stepsLeft_eq_zero_iff _).mp (Nat.le_zero.mp hleft)⟩
  | succ n ih =>
    have hfetch := fetch_engine hturns
    cases hinternal : s.phase.hasInternalStep with
    | false =>
      have hzero := (stepsLeft_eq_zero_iff _).mpr hinternal
      rw [run_succ (step_internal_held hfetch hpair hinternal)]
      exact ih (s.setTurns _) hpair hgain (hzero.le.trans (Nat.zero_le n)) rfl
    | true =>
      obtain ⟨t, ht, hpair', hless, hparams, hturns', hrx⟩ :=
        exec_internal_advances (s := s.setTurns (List.replicate n .engine ++ rest)) hpair hinternal hgain
      have hleft' : stepsLeft t.phase < stepsLeft s.phase := hless
      rw [run_succ ((step_internal hfetch hpair hinternal).trans ht), ← show t.rx = s.rx from hrx]
      exact ih t hpair' (hparams ▸ hgain) (by omega) hturns'

/-- Settles O54: no phase has more than seven steps left. -/
theorem runReachesAWaitingPhase : Obligations.RunReachesAWaitingPhase := fun s rest hpair hgain hturns =>
  run_engine_waits runTurns s rest hpair hgain (stepsLeft_le s.phase) hturns

end Sys2Proof.Proofs

/-! From one PUBLISH to the next (70_reset_and_hazards.md section 3). Bytes of the frame in hand, as PHASE counts them,
and byte tokens that wait are together never more after a step than before it. -/

namespace Sys2Proof.Proofs

open Sys2Proof.Machine

/-- How many bytes of a frame the ENGINE has taken and not yet used up. -/
def bytesInHand (s : State) : Nat :=
  match s.phase with
  | .hdr1 => 1
  | .payload => s.count.toNat
  | .validate | .decode | .publish => 1980
  | .idle | .top | .hunt | .adjust | .notify | .waitAck | .stopseq => 0

/-- The bytes an instruction takes from the TRANSPORT. -/
def bytesTaken : Instr → Nat
  | .huntByte _ | .hdr1Byte _ | .payloadByte _ => 1
  | _ => 0

theorem bytesTaken_tokenInstr {p : Phase} (tok : Token) (h : p.takesToken = true) :
    bytesTaken (tokenInstr p tok) = if isByteToken tok then 1 else 0 := by
  unfold tokenInstr isByteToken
  rcases (takesToken_iff p).mp h with rfl | rfl | rfl <;> cases tok.getLsbD 8 <;> rfl

theorem bytesTaken_of_command {i : Instr} (h : i.isEngineStep = false) : bytesTaken i = 0 := by
  cases i with
  | huntByte | hdr1Byte | payloadByte => cases h
  | _ => rfl

theorem bytesTaken_internalInstr (p : Phase) : bytesTaken (internalInstr p) = 0 := by
  cases p <;> rfl

theorem bytesInHand_congr {s t : State} (hphase : t.phase = s.phase) (hcount : t.count = s.count) :
    bytesInHand t = bytesInHand s := by
  rw [bytesInHand, hphase, hcount]
  rfl

theorem bytesInHand_top {s : State} (h : s.phase = .top) : bytesInHand s = 0 := by
  rw [bytesInHand, h]

/-- Only a byte taken adds to the frame in hand. -/
theorem bytesInHand_exec_le {i : Instr} {s t : State} (hp : RunsIn s i) (hexec : exec i s = .next t) :
    bytesInHand t ≤ bytesInHand s + bytesTaken i := by
  cases result_of_exec hexec with
  | answers | race | setTarget | setCb | stop => exact Nat.le_add_right _ _
  | start =>
    rcases startSequence_phase_count s with ⟨hphase, hcount⟩ | ⟨hphase, -⟩
    · rw [bytesInHand_congr hphase hcount]; exact Nat.le_add_right _ _
    · rw [bytesInHand_top hphase]; exact Nat.zero_le _
  | ack => exact Nat.zero_le _
  | payloadByte d hlt =>
    have hphase := hp _ rfl
    have hnext := toNat_count_succ hlt
    simp only [bytesInHand, State.payloadByte_phase, State.payloadByte_count, hphase, bytesTaken]
    split_ifs <;> simp only <;> omega
  | _ =>
    have hphase := hp _ rfl
    simp [bytesInHand, bytesTaken, hphase, decoded, published, adjusted, notified, stopped]

theorem bytesWaiting_of_rx {s t : State} {tok : Token} {more : List Token} (hs : s.rx = tok :: more)
    (ht : t.rx = more) : s.bytesWaiting = t.bytesWaiting + if isByteToken tok then 1 else 0 := by
  rw [State.bytesWaiting, State.bytesWaiting, hs, ht, List.filter_cons]
  split <;> rfl

theorem bytesWaiting_congr {s t : State} (h : t.rx = s.rx) : t.bytesWaiting = s.bytesWaiting := by
  rw [State.bytesWaiting, h]
  rfl

/-- An instruction that takes no token can only give up bytes in hand. -/
theorem bytes_exec_le {i : Instr} {s t : State} (hp : RunsIn s i) (htaken : bytesTaken i = 0)
    (hexec : exec i s = .next t) : bytesInHand t + t.bytesWaiting ≤ bytesInHand s + s.bytesWaiting := by
  have hle := bytesInHand_exec_le hp hexec
  have hwait := bytesWaiting_congr (writtenBy_of_exec hexec).rx
  omega

theorem bytes_command_le {c : Word} {s t : State} (h : runInput (.command c) s = .next t) :
    bytesInHand t + t.bytesWaiting ≤ bytesInHand s + s.bytesWaiting := by
  cases hd : decode (.command c) with
  | instr i =>
    have hi := isEngineStep_of_decode_command hd
    simp only [runInput, hd] at h
    exact bytes_exec_le (runsIn_command hi) (bytesTaken_of_command hi) h
  | rejected e =>
    simp only [runInput, hd, decode_command_rejected hd, runRejected] at h
    cases h
    exact le_rfl

/-- A step neither makes up bytes nor lets any that wait go but to the frame in hand. -/
theorem bytes_step_le {s t : State} (hstep : step s = .next t) :
    bytesInHand t + t.bytesWaiting ≤ bytesInHand s + s.bytesWaiting := by
  rcases step_cases s t hstep with ⟨ts, rfl, -⟩ | ⟨ts, -, rfl⟩ | ⟨c, ts, -, hcommand⟩
    | ⟨ts, -, hinternal, -, hexec⟩ | ⟨ts, tok, more, -, htakes, hrx, -, hexec⟩ | ⟨a, ts, -, rfl⟩ | ⟨ts, -, hpoll⟩
  · exact le_rfl
  · exact Nat.add_le_add_right (Nat.zero_le _) _
  · exact bytes_command_le (s := s.setTurns ts) hcommand
  · exact bytes_exec_le (s := s.setTurns ts) (runsIn_internal hinternal) (bytesTaken_internalInstr _) hexec
  · have hle : bytesInHand t ≤ bytesInHand s + bytesTaken (tokenInstr s.phase tok) :=
      bytesInHand_exec_le (s := (s.setTurns ts).setRx more) (runsIn_token tok htakes) hexec
    rw [bytesTaken_tokenInstr tok htakes] at hle
    have hwait := bytesWaiting_of_rx hrx (writtenBy_of_exec hexec).rx
    omega
  · exact le_rfl
  · have hle := bytes_exec_le (runsIn_command rfl) rfl hpoll
    split at hle <;> exact hle

theorem bytes_run_le (n : Nat) {s t : State} (h : Host.Core.run Sys2Proof.core n s = .next t) :
    bytesInHand t + t.bytesWaiting ≤ bytesInHand s + s.bytesWaiting := by
  induction n generalizing s with
  | zero => cases h; exact le_rfl
  | succ n ih =>
    obtain ⟨u, hu⟩ : ∃ u, step s = .next u := by
      cases hs : step s with
      | next u => exact ⟨u, rfl⟩
      | fault r => simp [Host.Core.run, core, hs] at h
      | refused r => simp [Host.Core.run, core, hs] at h
    rw [run_succ hu] at h
    exact (ih h).trans (bytes_step_le hu)

/-- Settles O38: right after a PUBLISH no byte is in hand, right before the next one a whole frame is. -/
theorem betweenPublishesLieAFrameOfBytes : Obligations.BetweenPublishesLieAFrameOfBytes := by
  intro n s t hadjust hrun hpublish
  have hle := bytes_run_le n hrun
  have hs : bytesInHand s = 0 := by rw [bytesInHand, hadjust]
  have ht : bytesInHand t = 1980 := by rw [bytesInHand, hpublish]
  omega

end Sys2Proof.Proofs

/-! Steps read one after another or side by side (R113, R121, R170, R172, R190): each statement is an equation or an
`Effect` of the steps it names, put together. -/

namespace Sys2Proof.Proofs

open Sys2Proof.Machine

/-- Settles O20: the byte is a fresh candidate in both states, or in both the hunt goes on from scratch. -/
theorem resynchronizationForgetsThePast : Obligations.ResynchronizationForgetsThePast := by
  intro d s u hparams hs hu hcount h1
  by_cases h0 : d = s.params.hdr0
  · refine ⟨_, _, exec_hdr1Byte_of_ne_of_eq h1 h0, exec_huntByte_of_eq (hparams ▸ h0), rfl, rfl, fun _ => ?_⟩
    rw [(storeEffect_candidate s d).stored, (storeEffect_candidate u d).stored]
  · refine ⟨_, _, exec_hdr1Byte_of_ne_of_ne h1 h0, exec_huntByte_of_ne (hparams ▸ h0), ?_, ?_, nofun⟩
    · rw [State.rehunt_phase, State.requestRead_phase, hu]
    · rw [State.rehunt_count, State.requestRead_count, hcount]

/-- Settles O21: the trace of each outcome of the four steps. -/
theorem synchronizerReadRequests : Obligations.SynchronizerReadRequests := by
  refine fun d s => ⟨?huntByte, ⟨_, exec_huntShort d s, (effect_requestRead s 1).trace⟩, ?hdr1Byte,
    ⟨_, exec_hdr1Short d s, (effect_rehunt s).trace⟩⟩
  case huntByte =>
    by_cases h0 : d = s.params.hdr0
    · exact ⟨_, exec_huntByte_of_eq h0, (storeEffect_candidate s d).trace⟩
    · exact ⟨_, exec_huntByte_of_ne h0, (effect_requestRead s 1).trace⟩
  case hdr1Byte =>
    by_cases h1 : d = s.params.hdr1
    · rw [if_pos h1]
      exact ⟨_, exec_hdr1Byte_of_eq h1, (storeEffect_headerMatched s d).trace⟩
    rw [if_neg h1]
    by_cases h0 : d = s.params.hdr0
    · exact ⟨_, exec_hdr1Byte_of_ne_of_eq h1 h0, (storeEffect_candidate s d).trace⟩
    · exact ⟨_, exec_hdr1Byte_of_ne_of_ne h1 h0, (effect_rehunt s).trace⟩

/-- Settles O36: PUBLISH makes the decoded bank the stable one, and neither it nor SNAPSHOT writes an entry. -/
theorem snapshotAfterPublishSeesTheRevolution : Obligations.SnapshotAfterPublishSeesTheRevolution := by
  intro s
  refine ⟨_, _, _, exec_decode s, exec_publish _, exec_snapshot _, ?answer, fun j hj => ?entry⟩
  case answer =>
    rw [lastResponse_respond, stable_published, show (decoded s).wrSel = s.wrSel by simp [decoded]]
    rfl
  case entry =>
    obtain ⟨-, hsnapshot⟩ := (effect_respond (published (decoded s)) .ok [zext32 (published (decoded s)).stable]).memory
    obtain ⟨-, hpublish⟩ := (effect_published (decoded s)).memory
    rw [hsnapshot, hpublish, scanEntry_decoded_wrSel, if_pos hj]

/-! ### The sign of the correction (R190, R191) -/

theorem roundHalfAway_nonneg {n : Int} (d : Nat) (h : 0 ≤ n) : 0 ≤ roundHalfAway n d := by
  rw [roundHalfAway_of_nonneg d h]
  exact Int.natCast_nonneg _

/-- Rounding half away from zero is odd, but for the form of the formula at 0. -/
theorem roundHalfAway_nonpos {n : Int} (d : Nat) (h : n ≤ 0) : roundHalfAway n d ≤ 0 := by
  rcases h.lt_or_eq with hneg | rfl
  · rw [roundHalfAway_of_neg d hneg]
    exact neg_nonpos.mpr (Int.natCast_nonneg _)
  · have hzero : (2 * (0 : Int).natAbs + d) / (2 * d) = 0 := by
      rcases d.eq_zero_or_pos with rfl | hd
      · rfl
      · exact Nat.div_eq_of_lt (by simp; omega)
    rw [roundHalfAway_of_nonneg d le_rfl, hzero]
    rfl

section Correction

variable {s : State}

theorem delta_nonneg (h : 0 ≤ s.errorTerm) : 0 ≤ s.delta :=
  roundHalfAway_nonneg _ (by positivity)

theorem delta_nonpos (h : s.errorTerm ≤ 0) : s.delta ≤ 0 := by
  refine roundHalfAway_nonpos _ ?_
  exact mul_nonpos_of_nonpos_of_nonneg (mul_nonpos_of_nonpos_of_nonneg h (Int.natCast_nonneg _)) (Int.natCast_nonneg _)

theorem drive_le_newDrive (hceiling : s.drive.toNat ≤ maxPwm s.pwmRange.toNat) (h : 0 ≤ s.delta) :
    (s.drive.toNat : Int) ≤ s.newDrive := by
  rw [State.newDrive, clamp]
  omega

theorem newDrive_le_drive (h : s.delta ≤ 0) : s.newDrive ≤ (s.drive.toNat : Int) := by
  rw [State.newDrive, clamp]
  omega

end Correction

/-- Settles O41: the correction has the sign of the error, and clamping a drive below its ceiling does not turn a
correction round. -/
theorem driveMovesTowardTheTarget : Obligations.DriveMovesTowardTheTarget := by
  intro s t hceiling hexec
  cases result_of_exec hexec with
  | answers hi => cases hi
  | adjust =>
    have hdrive := toNat_adjusted_drive s
    have hup (h : s.speedSum.toNat ≤ 90 * s.target.toNat) : s.drive.toNat ≤ (adjusted s).drive.toNat := by
      have hle := drive_le_newDrive hceiling (delta_nonneg (by rw [State.errorTerm]; omega))
      omega
    have hdown (h : 90 * s.target.toNat ≤ s.speedSum.toNat) : (adjusted s).drive.toNat ≤ s.drive.toNat := by
      have hle := newDrive_le_drive (s := s) (delta_nonpos (by rw [State.errorTerm]; omega))
      omega
    exact ⟨fun h => hup h.le, fun h => hdown h.le,
      fun h => BitVec.eq_of_toNat_eq ((hdown h.ge).antisymm (hup h.le)), toNat_adjusted_drive_le s⟩

end Sys2Proof.Proofs

/-! STOP beside the ENGINE's work on a frame (R215, R246). No ENGINE step but TOP and STOPSEQ reads the stop flag, and
none reads the trace, so from states that differ in these alone it leads to states that differ in these alone. -/

namespace Sys2Proof.Proofs

open Sys2Proof.Machine

/-- `s` with another stop flag and another trace. -/
def restamped (s : State) (b : Bool) (tr : List Obs) : State := { s with stopReq := b, trace := tr }

/-- From `s` to `u` the stop flag and the trace alone may differ. -/
def Alike (s u : State) : Prop := ∃ b tr, u = restamped s b tr

theorem Alike.symm {s u : State} (h : Alike s u) : Alike u s := by
  obtain ⟨b, tr, rfl⟩ := h
  exact ⟨s.stopReq, s.trace, rfl⟩

theorem frameOk_restamped (s : State) (b : Bool) (tr : List Obs) : (restamped s b tr).frameOk = s.frameOk :=
  frameOk_congr (State.frameByte_congr s _ rfl rfl)

theorem putBank_restamped (s : State) (b : Bool) (tr : List Obs) (k : BankNo) (c : Bank) :
    (restamped s b tr).putBank k c = restamped (s.putBank k c) b tr := by
  rcases bankNo_cases k with rfl | rfl <;> rfl

theorem decodedBank_restamped (s : State) (b : Bool) (tr : List Obs) (c : Bank) :
    (restamped s b tr).decodedBank c = s.decodedBank c := by
  unfold State.decodedBank
  rfl

theorem speedTotal_restamped (s : State) (b : Bool) (tr : List Obs) : (restamped s b tr).speedTotal = s.speedTotal := by
  unfold State.speedTotal
  rfl

theorem decoded_restamped (s : State) (b : Bool) (tr : List Obs) :
    decoded (restamped s b tr) = restamped (decoded s) b tr := by
  rw [decoded, decodedBank_restamped, speedTotal_restamped, putBank_restamped]
  rfl

section PayloadByte

variable {s : State} {d : Byte}

theorem payloadByte_of_last (h : (s.count + 1#11).toNat = Config.frameSize) :
    s.payloadByte d = (s |>.putFrame s.count.toNat d |>.setCount (s.count + 1#11) |>.setPhase .validate) := if_pos h

theorem payloadByte_of_not_last (h : (s.count + 1#11).toNat ≠ Config.frameSize) :
    s.payloadByte d = (s |>.putFrame s.count.toNat d |>.setCount (s.count + 1#11)) := if_neg h

end PayloadByte

theorem payloadByte_restamped (s : State) (b : Bool) (tr : List Obs) (d : Byte) :
    (restamped s b tr).payloadByte d = restamped (s.payloadByte d) b tr := by
  by_cases h : (s.count + 1#11).toNat = Config.frameSize
  · rw [payloadByte_of_last h, payloadByte_of_last (s := restamped s b tr) h]
    rfl
  · rw [payloadByte_of_not_last h, payloadByte_of_not_last (s := restamped s b tr) h]
    rfl

/-- Every ENGINE step but TOP and STOPSEQ keeps states alike. -/
theorem exec_alike {i : Instr} {s u c : State} (hi : i.isEngineStep = true) (htop : i ≠ .top) (hstopseq : i ≠ .stopseq)
    (hlike : Alike s u) (h : exec i s = .next c) : ∃ t, exec i u = .next t ∧ Alike c t := by
  obtain ⟨b, tr, rfl⟩ := hlike
  cases i with
  | top => exact absurd rfl htop
  | stopseq => exact absurd rfl hstopseq
  | huntByte d =>
    by_cases h0 : d = s.params.hdr0
    · cases (exec_huntByte_of_eq h0).symm.trans h
      exact ⟨_, exec_huntByte_of_eq (s := restamped s b tr) h0, b, _, rfl⟩
    · cases (exec_huntByte_of_ne h0).symm.trans h
      exact ⟨_, exec_huntByte_of_ne (s := restamped s b tr) h0, b, _, rfl⟩
  | hdr1Byte d =>
    by_cases h1 : d = s.params.hdr1
    · cases (exec_hdr1Byte_of_eq h1).symm.trans h
      exact ⟨_, exec_hdr1Byte_of_eq (s := restamped s b tr) h1, b, _, rfl⟩
    by_cases h0 : d = s.params.hdr0
    · cases (exec_hdr1Byte_of_ne_of_eq h1 h0).symm.trans h
      exact ⟨_, exec_hdr1Byte_of_ne_of_eq (s := restamped s b tr) h1 h0, b, _, rfl⟩
    · cases (exec_hdr1Byte_of_ne_of_ne h1 h0).symm.trans h
      exact ⟨_, exec_hdr1Byte_of_ne_of_ne (s := restamped s b tr) h1 h0, b, _, rfl⟩
  | huntShort | hdr1Short | payloadShort | publish =>
    cases h
    exact ⟨_, rfl, b, _, rfl⟩
  | payloadByte d =>
    by_cases hcount : s.count.toNat < 1980
    · cases (exec_payloadByte_of_lt hcount).symm.trans h
      exact ⟨_, exec_payloadByte_of_lt (s := restamped s b tr) hcount, b, tr, payloadByte_restamped s b tr d⟩
    · cases (exec_payloadByte_of_not_lt hcount).symm.trans h
  | validate =>
    have hok' := frameOk_restamped s b tr
    by_cases hok : s.frameOk = true
    · cases (exec_validate_of_frameOk hok).symm.trans h
      exact ⟨_, exec_validate_of_frameOk (hok'.trans hok), b, _, rfl⟩
    · cases (exec_validate_of_not_frameOk hok).symm.trans h
      exact ⟨_, exec_validate_of_not_frameOk (hok' ▸ hok), b, _, rfl⟩
  | decode =>
    cases (exec_decode s).symm.trans h
    exact ⟨_, exec_decode _, b, tr, decoded_restamped s b tr⟩
  | adjust =>
    by_cases hgain : gainInSpec s.params = true
    · cases (exec_adjust_of_gainInSpec hgain).symm.trans h
      exact ⟨_, exec_adjust_of_gainInSpec (s := restamped s b tr) hgain, b, _, rfl⟩
    · cases (exec_adjust_of_not_gainInSpec hgain).symm.trans h
  | notify =>
    by_cases hcb : s.cbEn = true
    · cases (exec_notify_of_cbEn hcb).symm.trans h
      exact ⟨_, exec_notify_of_cbEn (s := restamped s b tr) hcb, b, _, rfl⟩
    · cases (exec_notify_of_not_cbEn hcb).symm.trans h
      exact ⟨_, exec_notify_of_not_cbEn (s := restamped s b tr) hcb, b, _, rfl⟩
  | start | stop | snapshot | readPoint | readRpm | readDrive | readStatus | setTarget | readTarget | setCb | scanAck
  | reserved0 | reservedCF => cases hi

/-- Settles O55: without the STOP the step leads to a state alike, and the STOP then sets the flag it had set before. -/
theorem stopCommutesWithTheFrame : Obligations.StopCommutesWithTheFrame := by
  intro i s a b hi htop hstopseq hls hstop hexec
  have hstart : i ≠ .start := fun h => by rw [h] at hi; cases hi
  have hnotStop : i ≠ .stop := fun h => by rw [h] at hi; cases hi
  have w := writtenBy_of_exec hexec
  have hflag : b.stopReq = true := (w.stopReq hstopseq hstart hnotStop).trans (stopReq_of_exec_stop hstop hls)
  have hlike : Alike s a := by
    cases (exec_stop s).symm.trans hstop
    exact ⟨_, _, rfl⟩
  have hrunning : b.ls = .running := by
    rw [w.ls htop hstopseq hstart, (writtenBy_of_exec hstop).ls nofun nofun nofun, hls]
  obtain ⟨c, hc, flag, tr, rfl⟩ := exec_alike hi htop hstopseq hlike.symm hexec
  refine ⟨_, _, hc, exec_stop _, ?regs, ⟨State.frameByte_congr b _ rfl rfl, State.scanEntry_congr b _ rfl rfl rfl⟩,
    rfl, rfl, rfl, rfl, rfl⟩
  case regs => simp [State.regs, stopRequested, restamped, hrunning, hflag]

end Sys2Proof.Proofs

/-! A whole frame (R80, R110, R113, R115). Each of its bytes is one TRANSPORT turn that stores the byte at the next
offset; the turns of a list of bytes are chained by what they have stored. -/

namespace Sys2Proof.Proofs

open Sys2Proof.Machine

/-- From `s` to `t` the bytes are stored from offset `n` on, what lies before stays, and of the registers only `PHASE`
and `COUNT` are written, to `p` and `c`. -/
structure BytesStored (s t : State) (n : Nat) (bytes : List Byte) (p : Phase) (c : BitVec 11) : Prop where
  regs : t.regs = { s.regs with phase := p, count := c }
  stored : ∀ i, i < bytes.length → t.frameByte (n + i) = bytes.getD i 0#8
  before : ∀ i, i < n → t.frameByte i = s.frameByte i
  banks : ∀ k, bankKept k s t

theorem bytesStored_nil (s : State) (n : Nat) : BytesStored s s n [] s.phase s.count :=
  ⟨rfl, nofun, fun _ _ => rfl, fun _ _ => rfl⟩

theorem BytesStored.cons {s u t : State} {n : Nat} {d : Byte} {bytes : List Byte} {p p' : Phase} {c c' : BitVec 11}
    (h : BytesStored s u n [d] p c) (h' : BytesStored u t (n + 1) bytes p' c') :
    BytesStored s t n (d :: bytes) p' c' where
  regs := by rw [h'.regs, h.regs]
  stored i hi := by
    cases i with
    | zero => exact (h'.before n n.lt_succ_self).trans (h.stored 0 Nat.one_pos)
    | succ i =>
      rw [Nat.add_comm i 1, ← Nat.add_assoc, Nat.add_comm 1 i]
      exact h'.stored i (Nat.lt_of_succ_lt_succ hi)
  before i hi := (h'.before i (hi.trans n.lt_succ_self)).trans (h.before i hi)
  banks k j := (h'.banks k j).trans (h.banks k j)

/-- The byte of a byte token (R90). -/
theorem byte_of_token (d : Byte) :
    (d.setWidth 9).extractLsb' 0 8 = d ∧ (d.setWidth 9).getLsbD 8 = false :=
  ⟨extractLsb'_setWidth_low d (by decide), by simp⟩

/-- A TRANSPORT turn whose byte is stored. -/
theorem step_stores {s t : State} {d : Byte} {turns : List Turn} {more : List Token} {n : Nat} {p : Phase} {c : BitVec 11}
    {obs : List Obs} (hpair : s.ls = s.phase.lifecycle) (htakes : s.phase.takesToken = true)
    (hturns : s.turns = .transport :: turns) (hrx : s.rx = d.setWidth 9 :: more)
    (hexec : exec (tokenInstr s.phase (d.setWidth 9)) ((s.setTurns turns).setRx more) = .next t)
    (hstore : StoreEffect ((s.setTurns turns).setRx more) t n d { s.regs with count := c, phase := p } obs) :
    step s = .next t ∧ t.turns = turns ∧ t.rx = more ∧ BytesStored s t n [d] p c := by
  obtain ⟨hts, hrs, -⟩ := hstore.world
  refine ⟨(step_transport hpair htakes hturns hrx).trans hexec, hts, hrs, hstore.regs, fun i hi => ?_,
    fun i hi => hstore.others i hi.ne, hstore.banks⟩
  obtain rfl : i = 0 := Nat.lt_one_iff.mp hi
  exact hstore.stored

section Header

variable {s : State} {d : Byte} {turns : List Turn} {more : List Token} (hls : s.ls = .running)
  (hturns : s.turns = .transport :: turns) (hrx : s.rx = d.setWidth 9 :: more)
include hls hturns hrx

theorem step_first_header (hphase : s.phase = .hunt) (h0 : d = s.params.hdr0) :
    ∃ t, step s = .next t ∧ t.turns = turns ∧ t.rx = more ∧ BytesStored s t 0 [d] .hdr1 1#11 := by
  have hinstr : tokenInstr s.phase (d.setWidth 9) = .huntByte d := by simp [tokenInstr, hphase, byte_of_token]
  exact ⟨_, step_stores (by rw [hls, hphase]; rfl) (by rw [hphase]; rfl) hturns hrx
    (by rw [hinstr]; exact exec_huntByte_of_eq h0) (storeEffect_candidate _ d)⟩

theorem step_second_header (hphase : s.phase = .hdr1) (h1 : d = s.params.hdr1) :
    ∃ t, step s = .next t ∧ t.turns = turns ∧ t.rx = more ∧ BytesStored s t 1 [d] .payload 2#11 := by
  have hinstr : tokenInstr s.phase (d.setWidth 9) = .hdr1Byte d := by simp [tokenInstr, hphase, byte_of_token]
  exact ⟨_, step_stores (by rw [hls, hphase]; rfl) (by rw [hphase]; rfl) hturns hrx
    (by rw [hinstr]; exact exec_hdr1Byte_of_eq h1) (storeEffect_headerMatched _ d)⟩

theorem step_payload (hphase : s.phase = .payload) (hcount : s.count.toNat < 1980) :
    ∃ t, step s = .next t ∧ t.turns = turns ∧ t.rx = more
      ∧ BytesStored s t s.count.toNat [d] (if (s.count + 1#11).toNat = 1980 then .validate else .payload)
          (s.count + 1#11) := by
  have hinstr : tokenInstr s.phase (d.setWidth 9) = .payloadByte d := by simp [tokenInstr, hphase, byte_of_token]
  have hstore := storeEffect_payloadByte ((s.setTurns turns).setRx more) d
  exact ⟨_, step_stores (by rw [hls, hphase]; rfl) (by rw [hphase]; rfl) hturns hrx
    (by rw [hinstr]; exact exec_payloadByte_of_lt hcount) (hphase ▸ hstore)⟩

end Header

/-- The payload bytes still to come bring the ENGINE to VALIDATE. -/
theorem run_payload (bytes : List Byte) {s : State} {rest : List Turn} {more : List Token} (hls : s.ls = .running)
    (hphase : s.phase = if s.count.toNat = 1980 then .validate else .payload)
    (hcount : s.count.toNat + bytes.length = 1980)
    (hturns : s.turns = List.replicate bytes.length .transport ++ rest)
    (hrx : s.rx = bytes.map (fun d => d.setWidth 9) ++ more) :
    ∃ t, Host.Core.run Sys2Proof.core bytes.length s = .next t ∧ t.turns = rest ∧ t.rx = more
      ∧ BytesStored s t s.count.toNat bytes .validate 1980#11 := by
  induction bytes generalizing s with
  | nil =>
    have hfull : s.count = 1980#11 := BitVec.eq_of_toNat_eq hcount
    have hvalidate : s.phase = .validate := hphase.trans (if_pos hcount)
    exact ⟨s, rfl, hturns, hrx, hfull ▸ hvalidate ▸ bytesStored_nil s _⟩
  | cons d bytes ih =>
    rw [List.length_cons] at hcount hturns
    have hlt : s.count.toNat < 1980 := by omega
    have hnext := toNat_count_succ hlt
    rw [if_neg hlt.ne] at hphase
    obtain ⟨u, hstep, hts, hrs, hone⟩ := step_payload hls hturns hrx hphase hlt
    have hu : u.count = s.count + 1#11 := congrArg Regs.count hone.regs
    have hlsu : u.ls = .running := (congrArg Regs.ls hone.regs).trans hls
    have hphaseu : u.phase = _ := congrArg Regs.phase hone.regs
    obtain ⟨t, hrun, hturns', hrx', hall⟩ := ih hlsu (hu ▸ hphaseu) (by rw [hu, hnext]; omega) hts hrs
    rw [hu, hnext] at hall
    exact ⟨t, (run_succ hstep).trans hrun, hturns', hrx', hone.cons hall⟩

/-- Settles O19: the two header bytes, then the payload. -/
theorem wholeFrameIsCollected : Obligations.WholeFrameIsCollected := by
  intro s bytes rest more hls hphase hlen h0 h1 hturns hrx
  obtain ⟨d0, d1, bytes, rfl⟩ : ∃ d0 d1 bytes', bytes = d0 :: d1 :: bytes' := by
    match bytes, hlen with
    | d0 :: d1 :: bytes', _ => exact ⟨d0, d1, bytes', rfl⟩
  have hlen : bytes.length = 1978 := by simpa using hlen
  have hturns : s.turns = .transport :: .transport :: (List.replicate bytes.length .transport ++ rest) := by
    rw [hturns, hlen]
    rfl
  obtain ⟨u, hstep, htsu, hrxu, hfirst⟩ := step_first_header hls hturns hrx hphase h0
  have hlsu : u.ls = .running := (congrArg Regs.ls hfirst.regs).trans hls
  have h1u : d1 = u.params.hdr1 := by rw [show u.params = s.params from congrArg Regs.params hfirst.regs]; exact h1
  obtain ⟨v, hstep', htsv, hrxv, hsecond⟩ := step_second_header hlsu htsu hrxu (congrArg Regs.phase hfirst.regs) h1u
  have hlsv : v.ls = .running := (congrArg Regs.ls hsecond.regs).trans hlsu
  have hcountv : v.count = 2#11 := congrArg Regs.count hsecond.regs
  obtain ⟨t, hrun, hts, hrs, hpayload⟩ :=
    run_payload bytes hlsv (by rw [hcountv]; exact congrArg Regs.phase hsecond.regs) (by rw [hcountv, hlen]; rfl) htsv hrxv
  rw [hcountv] at hpayload
  have hall : BytesStored s t 0 (d0 :: d1 :: bytes) .validate 1980#11 := hfirst.cons (hsecond.cons hpayload)
  refine ⟨t, ?run, hall.regs, fun i hi => ?byte, hall.banks, hts, hrs⟩
  case run => rw [run_succ hstep, run_succ hstep', ← hlen, hrun]
  case byte => simpa using hall.stored i (by simpa [hlen] using hi)

end Sys2Proof.Proofs
